-- ==== Sys2Proof/Word.lean ====
section
/-! DEFINITION. Bytes, one-bit sequence numbers, and the three plain types that Config's free values range over:
the checksum kind, the ATP parameter record and the recovery pointer. -/

namespace Sys2Proof

/-- A byte: 8 bits, bit 7 the most significant (R8). -/
abbrev Byte := BitVec 8

/-- A 16-bit checksum value (R11, R91). -/
abbrev Word16 := BitVec 16

/-- A one-bit sequence number: N(S), N(R), `ns_master`, `ns_slave` (R20, R21). -/
abbrev Seq := BitVec 1

/-- "advance" and "flips" mean `v ^ 1`, which is `(v + 1) mod 2` (R97 a). -/
def Seq.flip (v : Seq) : Seq := v ^^^ 1#1

/-- The two epilogue kinds an ATP may declare (R24; codes LRC = 0, CRC = 1 are the spec's, D5). -/
inductive ChecksumKind where
  | lrc
  | crc
  deriving DecidableEq, Repr, Inhabited

/-- The ATP store's five fields (R24); `bwt` (ms) and `msf` (kHz) have no stated width and are natural numbers (D25). -/
structure Atp where
  checksum : ChecksumKind
  ifsc : Byte
  ifsd : Byte
  bwt : Nat
  msf : Nat
  deriving DecidableEq, Repr, Inhabited

/-- The escalation pointer's seven values, in the source's order (R22). -/
inductive Recovery where
  | ok
  | resend1
  | resend2
  | resync1
  | resync2
  | resync3
  | warmReset
  deriving DecidableEq, Repr, Inhabited

end Sys2Proof
end

