-- ==== Sys2Proof/Config.lean ====
section
/-! DEFINITION. What an implementation fixes: the open parameters of R7 at the spec's defaults, the environment's
ATP parser, and the free values (opaque: nothing in Lean can evaluate them). -/

namespace Sys2Proof

/-- The parameters of a reflected 16-bit CRC (R90): the bit-reflected polynomial, the initial value, the final XOR. -/
structure CrcParams where
  poly : Word16
  init : Word16
  xorOut : Word16
  deriving DecidableEq, Repr

/-- `CRC_PARAMS` at the spec's default (R90): 0x8408, 0xFFFF, 0xFFFF. PRESUMED by the spec itself (GK1): log entry 1. -/
def Config.crcParams : CrcParams := { poly := 0x8408#16, init := 0xFFFF#16, xorOut := 0xFFFF#16 }

/-- `LRC_SUPPORTED`, default true (R7, R96, D3): log entry 2. -/
def Config.lrcSupported : Bool := true

/-- `LRC_SEED`, 0x00 (R94, D3). -/
def Config.lrcSeed : Byte := 0x00#8

/-- The values the spec names for `UNKNOWN_S_TYPE_POLICY`: one (R7, D13). -/
inductive UnknownSTypePolicy where
  | consistencyFailure
  deriving DecidableEq, Repr

/-- `UNKNOWN_S_TYPE_POLICY`, default `consistency_failure` (R138, D13): log entry 3. -/
def Config.unknownSTypePolicy : UnknownSTypePolicy := .consistencyFailure

/-- `RESP_MAX`, the capacity of the response byte list; `none` is the default, unbounded (R7, R17, D27): log entry
26. -/
def Config.respMax : Option Nat := none

/-- `POLL_MS`, the pause between two polling reads of WAIT_FOR_RESPONSE. OPEN, "no rule depends on it" (R7, R111, D20,
U23): no value is given, and no step reads it. Log entry 27. -/
opaque Config.pollMs : Nat

/-- `AtpParse`, "a deterministic total function from byte lists … to a record or `fail`" (R194). The ATP's byte format
is in no source (N12), so nothing is known of it: no body can be used in a proof. Log entry 4. -/
opaque Config.atpParse : List Byte → Option Atp

/-- A free byte list: `resp` after an ERR (R187, U9) and where a response exceeds `RESP_MAX` (R17), `last_rx.data` of a
block with LEN = 255 (R113, U4). -/
opaque Config.freeBytes : Nat → List Byte

/-- A free 16-bit value: `last_rx.checksum` of a block with LEN = 255 (R113, U4), and the accumulators after a sum over
such a block (U10). -/
opaque Config.freeWord : Nat → Word16

/-- A free `recovery` after a failed INIT (R187). -/
opaque Config.freeRecovery : Nat → Recovery

/-- A free `first_transmission` after a failed INIT (R187). -/
opaque Config.freeFlag : Nat → Bool

/-- A free `ns_master` after a failed INIT (R187). -/
opaque Config.freeNsMaster : Nat → Seq

/-- A free `ns_slave` after a failed INIT (R187). -/
opaque Config.freeNsSlave : Nat → Seq

/-- A free `atp` after a failed INIT (R187). -/
opaque Config.freeAtp : Nat → Atp

/-- Whether check 1 passes on a block with LEN = 255, whose data and epilogue are unspecified (R113; the vectors of
95_test_vectors.md 2.7 allow both results). It reads the received buffer's cells. -/
opaque Config.longBlockSumOk : List (Nat × Byte) → Bool

end Sys2Proof
end

