-- ==== Sys2Proof/Machine/Checksum.lean ====
section
/-! DEFINITION. The CRC-16 generator and the LRC engine (40_checksum.md), and the epilogue they give. -/

namespace Sys2Proof.Machine

/-- One inner step of R91: shift right, and fold the polynomial in when bit 0 was 1. -/
def crcBit (acc : Word16) : Word16 :=
  if acc.getLsbD 0 then (acc >>> 1) ^^^ Config.crcParams.poly else acc >>> 1

/-- R91's inner loop: `n` steps of `crcBit`. -/
def crcBits : Nat → Word16 → Word16
  | 0, acc => acc
  | n + 1, acc => crcBits n (crcBit acc)

/-- R91's body for one byte. -/
def crcByte (acc : Word16) (b : Byte) : Word16 := crcBits 8 (acc ^^^ b.setWidth 16)

/-- What `crc_acc` holds after the bytes, before the final XOR, started from `acc` (R91). -/
def crcFrom (acc : Word16) (bs : List Byte) : Word16 := bs.foldl crcByte acc

/-- What `crc_acc` holds after the bytes, from the initial value (R91). -/
def crcAccOf (bs : List Byte) : Word16 := crcFrom Config.crcParams.init bs

/-- `CRC16(bytes)` (R91). -/
def crc16 (bs : List Byte) : Word16 := crcAccOf bs ^^^ Config.crcParams.xorOut

/-- `LRC(bytes)`, which is also what `lrc_acc` holds after them (R94). -/
def lrc (bs : List Byte) : Byte := bs.foldl (· ^^^ ·) Config.lrcSeed

/-- `Checksum(bytes)` (R95). -/
def checksum (k : ChecksumKind) (bs : List Byte) : Word16 :=
  match k with
  | .crc => crc16 bs
  | .lrc => (lrc bs).setWidth 16

/-- `E`, the epilogue's length (R95). -/
def epilogueLen (k : ChecksumKind) : Nat :=
  match k with
  | .crc => 2
  | .lrc => 1

/-- The epilogue's bytes: the LRC, or the CRC low byte first (R44). -/
def epilogue (k : ChecksumKind) (c : Word16) : List Byte :=
  match k with
  | .crc => [c.extractLsb' 0 8, c.extractLsb' 8 8]
  | .lrc => [c.extractLsb' 0 8]

/-- The received epilogue read back as a 16-bit value (R44, R104). -/
def epilogueValue (e : List Byte) : Word16 :=
  match e with
  | [lo] => lo.setWidth 16
  | lo :: hi :: _ => lo.setWidth 16 ||| (hi.setWidth 16 <<< 8)
  | [] => 0#16

end Sys2Proof.Machine
end

