-- ==== Sys2Proof/Syntax.lean ====
section
/-! DEFINITION. The instructions: the 14 wire blocks, told apart by the PCB byte (R67), and the three host operations
of the command port (R81), with their operands as decoding leaves them. -/

namespace Sys2Proof

/-- One constructor per row of spec/opcode_table.json. A wire block is a block the card sends; its LEN is the length of
its data, and its epilogue is not an operand. -/
inductive Instr where
  /-- `I` (R64): N(S), M, data. -/
  | i (ns : Seq) (more : Bool) (data : List Byte)
  /-- `R_OK` (R65): N(R), error-free. -/
  | rOk (nr : Seq)
  /-- `R_CKERR` (R65): N(R), checksum or parity error. -/
  | rCkerr (nr : Seq)
  /-- `R_OTHER` (R65): N(R), other error. -/
  | rOther (nr : Seq)
  /-- `S_RESYNCH_REQ` (PCB C0). -/
  | sResynchReq
  /-- `S_RESYNCH_RSP` (PCB E0). -/
  | sResynchRsp
  /-- `S_IFS_REQ` (PCB C1) with the new IFSC. -/
  | sIfsReq (ifsc : Byte)
  /-- `S_IFS_RSP` (PCB E1) with its one data byte. -/
  | sIfsRsp (ifsc : Byte)
  /-- `S_ABORT_REQ` (PCB C2). -/
  | sAbortReq
  /-- `S_ABORT_RSP` (PCB E2). -/
  | sAbortRsp
  /-- `S_WTX_REQ` (PCB C3) with the multiplier. -/
  | sWtxReq (mult : Byte)
  /-- `S_WTX_RSP` (PCB E3) with its one data byte. -/
  | sWtxRsp (mult : Byte)
  /-- `S_SWRESET_REQ` (PCB CF); a received one may carry any LEN 0..254 (R68, R138). -/
  | sSwresetReq (data : List Byte)
  /-- `S_SWRESET_RSP` (PCB EF) with the card's fresh ATP. -/
  | sSwresetRsp (data : List Byte)
  /-- `INIT` (cmd_op 00) with what `AtpLoad` returns, `none` for `fail` (R81, R193). -/
  | init (load : Option Atp)
  /-- `XFER_PART` (cmd_op 01). -/
  | xferPart (cmd : List Byte) (isLast : Bool)
  /-- `XFER_APDU` (cmd_op 10). -/
  | xferApdu (cmd : List Byte)
  deriving DecidableEq, Repr

/-- What the host puts on the command port (R81): the 2-bit operation code and the operands of the three operations. -/
structure CmdPort where
  cmdOp : BitVec 2
  cmd : List Byte
  isLast : Bool
  atpLoad : Option Atp
  deriving DecidableEq, Repr

/-- An instruction as it reaches the engine: a block's bytes on the card-to-host stream, or the command port. -/
inductive Encoded where
  | block (bytes : List Byte)
  | port (c : CmdPort)
  deriving DecidableEq, Repr

end Sys2Proof
end

