-- ==== Sys2Proof/WellFormed.lean ====
section
/-! DEFINITION. Which instructions the encodings can carry: LEN is at most 254 (R60, R68), and the operand bounds the
host operations have whatever the state (R81, R122, R127). -/

namespace Sys2Proof

/-- `LEN_MAX`, the largest legal LEN (R5). -/
def lenMax : Nat := 254

/-- An instruction's operands are ones its encoding admits. `XFER_PART`'s bound `min(atp.ifsc, 254)` depends on the
state and is checked by its meaning; 254 is what holds in every state. -/
def Instr.wf : Instr → Bool
  | .i _ _ data => data.length ≤ lenMax
  | .rOk _ => true
  | .rCkerr _ => true
  | .rOther _ => true
  | .sResynchReq => true
  | .sResynchRsp => true
  | .sIfsReq _ => true
  | .sIfsRsp _ => true
  | .sAbortReq => true
  | .sAbortRsp => true
  | .sWtxReq _ => true
  | .sWtxRsp _ => true
  | .sSwresetReq data => data.length ≤ lenMax
  | .sSwresetRsp data => data.length ≤ lenMax
  | .init _ => true
  | .xferPart cmd _ => cmd.length ≤ lenMax
  | .xferApdu cmd => cmd ≠ []

end Sys2Proof
end

