-- ==== Sys2Proof/Decode.lean ====
section
/-! DEFINITION. PCB fields (R62 to R71), the decoder, total on any bytes and on any command-port word, rejecting by
name, and after it the encoder. -/

namespace Sys2Proof

/-- The three block kinds (R63). -/
inductive BlockKind where
  | I
  | R
  | S
  deriving DecidableEq, Repr

/-- `kind(pcb)`, the source's `classify` (R63, R103). -/
def blockKind (pcb : Byte) : BlockKind :=
  if pcb.getLsbD 7 then (if pcb.getLsbD 6 then .S else .R) else .I

/-- `ns(pcb) = pcb[6]` (R69). -/
def pcbNs (pcb : Byte) : Seq := pcb.extractLsb' 6 1

/-- `m(pcb) = pcb[5]` (R69). -/
def pcbMore (pcb : Byte) : Bool := pcb.getLsbD 5

/-- `nr(pcb) = pcb[4]` (R69). -/
def pcbNr (pcb : Byte) : Seq := pcb.extractLsb' 4 1

/-- `err(pcb) = pcb[1:0]` (R69). -/
def pcbErr (pcb : Byte) : BitVec 2 := pcb.extractLsb' 0 2

/-- `rsp(pcb) = pcb[5]` (R69). -/
def pcbRsp (pcb : Byte) : Bool := pcb.getLsbD 5

/-- `stype(pcb) = pcb[3:0]` (R66, R69). -/
def pcbStype (pcb : Byte) : BitVec 4 := pcb.extractLsb' 0 4

/-- The reserved bits of the PCB's kind are all zero (R74). -/
def pcbReservedClear (pcb : Byte) : Bool :=
  match blockKind pcb with
  | .I => pcb &&& 0x1F#8 == 0#8
  | .R => pcb &&& 0x6C#8 == 0#8
  | .S => pcb &&& 0x10#8 == 0#8

/-- Why bits are no instruction of the table. -/
inductive DecodeError where
  /-- The bytes end before the block does (R77). -/
  | truncated
  /-- The first byte is not the card's NAD 0x12 (R61, R77). -/
  | badNad
  /-- The epilogue is not the checksum of prologue and data (R102). -/
  | badChecksum
  /-- A reserved PCB bit is set (R74). -/
  | reservedBits
  /-- LEN = 255, or a LEN the kind or the S type does not carry (R68). -/
  | badLen
  /-- The data list given with the fields does not have LEN bytes (R11). -/
  | dataLength
  /-- An S type 0x04 to 0x0E (R75 b). -/
  | unknownSType
  /-- An R-block with error kind 11 and this N(R) (R75 a): no row of the table, yet processed (U2). -/
  | undefinedErrKind (nr : Seq)
  /-- Bytes left over after the block. -/
  | trailingBytes
  /-- `cmd_op = 11` (R81). -/
  | reservedCmdOp
  deriving DecidableEq, Repr

/-- An S-block's instruction from its type, its response bit and its data (R67, R68). -/
def decodeS (stype : BitVec 4) (rsp : Bool) (data : List Byte) : Except DecodeError Instr :=
  if stype = 0x0#4 then
    match data with
    | [] => .ok (if rsp then .sResynchRsp else .sResynchReq)
    | _ => .error .badLen
  else if stype = 0x1#4 then
    match data with
    | [b] => .ok (if rsp then .sIfsRsp b else .sIfsReq b)
    | _ => .error .badLen
  else if stype = 0x2#4 then
    match data with
    | [] => .ok (if rsp then .sAbortRsp else .sAbortReq)
    | _ => .error .badLen
  else if stype = 0x3#4 then
    match data with
    | [b] => .ok (if rsp then .sWtxRsp b else .sWtxReq b)
    | _ => .error .badLen
  else if stype = 0xF#4 then .ok (if rsp then .sSwresetRsp data else .sSwresetReq data)
  else .error .unknownSType

/-- An R-block's instruction from its error kind and N(R) (R65, R75 a). -/
def decodeR (err : BitVec 2) (nr : Seq) (data : List Byte) : Except DecodeError Instr :=
  match data with
  | [] =>
    if err = 0#2 then .ok (.rOk nr)
    else if err = 1#2 then .ok (.rCkerr nr)
    else if err = 2#2 then .ok (.rOther nr)
    else .error (.undefinedErrKind nr)
  | _ => .error .badLen

/-- The instruction of a block's PCB, LEN and data (R67). -/
def decodeFields (pcb len : Byte) (data : List Byte) : Except DecodeError Instr :=
  if !pcbReservedClear pcb then .error .reservedBits
  else if len = 255#8 then .error .badLen
  else if data.length ≠ len.toNat then .error .dataLength
  else
    match blockKind pcb with
    | .I => .ok (.i (pcbNs pcb) (pcbMore pcb) data)
    | .R => decodeR (pcbErr pcb) (pcbNr pcb) data
    | .S => decodeS (pcbStype pcb) (pcbRsp pcb) data

/-- The first block of a byte stream that starts at its NAD, and the bytes after it (R60, R77). -/
def decodeFrame (k : ChecksumKind) : List Byte → Except DecodeError (Instr × List Byte)
  | nad :: pcb :: len :: rest =>
    let data := rest.take len.toNat
    let epi := (rest.drop len.toNat).take (Machine.epilogueLen k)
    if nad ≠ 0x12#8 then .error .badNad
    else if rest.length < len.toNat + Machine.epilogueLen k then .error .truncated
    else if epi ≠ Machine.epilogue k (Machine.checksum k (nad :: pcb :: len :: data)) then .error .badChecksum
    else
      match decodeFields pcb len data with
      | .ok i => .ok (i, rest.drop (len.toNat + Machine.epilogueLen k))
      | .error e => .error e
  | _ => .error .truncated

/-- The host operation on the command port (R81). -/
def decodeCmd (c : CmdPort) : Except DecodeError Instr :=
  if c.cmdOp = 0#2 then .ok (.init c.atpLoad)
  else if c.cmdOp = 1#2 then .ok (.xferPart c.cmd c.isLast)
  else if c.cmdOp = 2#2 then .ok (.xferApdu c.cmd)
  else .error .reservedCmdOp

/-- The decoder: exactly one block, or one command-port word. -/
def decode (k : ChecksumKind) : Encoded → Except DecodeError Instr
  | .block bs =>
    match decodeFrame k bs with
    | .ok (i, []) => .ok i
    | .ok (_, _ :: _) => .error .trailingBytes
    | .error e => .error e
  | .port c => decodeCmd c

/-! ### The encoder -/

/-- A card-to-host block's bytes: NAD 0x12, PCB, LEN, data, epilogue (R41, R61). -/
def cardFrame (k : ChecksumKind) (pcb : Byte) (data : List Byte) : List Byte :=
  let body := 0x12#8 :: pcb :: BitVec.ofNat 8 data.length :: data
  body ++ Machine.epilogue k (Machine.checksum k body)

/-- The PCB of an I-block: `0 ns m 00000` (R64). -/
def encodePcbI (ns : Seq) (more : Bool) : Byte :=
  (ns.setWidth 8 <<< 6) ||| (if more then 0x20#8 else 0x00#8)

/-- The PCB of an R-block: `100 nr 00 ee` (R65). -/
def encodePcbR (nr : Seq) (err : BitVec 2) : Byte :=
  0x80#8 ||| (nr.setWidth 8 <<< 4) ||| err.setWidth 8

/-- The words of an instruction (R67, R81). -/
def encode (k : ChecksumKind) : Instr → Encoded
  | .i ns more data => .block (cardFrame k (encodePcbI ns more) data)
  | .rOk nr => .block (cardFrame k (encodePcbR nr 0#2) [])
  | .rCkerr nr => .block (cardFrame k (encodePcbR nr 1#2) [])
  | .rOther nr => .block (cardFrame k (encodePcbR nr 2#2) [])
  | .sResynchReq => .block (cardFrame k 0xC0#8 [])
  | .sResynchRsp => .block (cardFrame k 0xE0#8 [])
  | .sIfsReq b => .block (cardFrame k 0xC1#8 [b])
  | .sIfsRsp b => .block (cardFrame k 0xE1#8 [b])
  | .sAbortReq => .block (cardFrame k 0xC2#8 [])
  | .sAbortRsp => .block (cardFrame k 0xE2#8 [])
  | .sWtxReq b => .block (cardFrame k 0xC3#8 [b])
  | .sWtxRsp b => .block (cardFrame k 0xE3#8 [b])
  | .sSwresetReq data => .block (cardFrame k 0xCF#8 data)
  | .sSwresetRsp data => .block (cardFrame k 0xEF#8 data)
  | .init load => .port { cmdOp := 0#2, cmd := [], isLast := false, atpLoad := load }
  | .xferPart cmd isLast => .port { cmdOp := 1#2, cmd := cmd, isLast := isLast, atpLoad := none }
  | .xferApdu cmd => .port { cmdOp := 2#2, cmd := cmd, isLast := false, atpLoad := none }

/-! ### The table's words -/

/-- The shortest data the PCB's row allows, all zeros: one byte for IFS and WTX, none for the rest (R68). -/
def tableData (pcb : Byte) : List Byte :=
  if blockKind pcb = .S ∧ (pcbStype pcb = 0x1#4 ∨ pcbStype pcb = 0x3#4) then [0#8] else []

/-- The command-port word of an operation code with operands of zeros: an all-zero ATP record, no command bytes for
XFER_PART, and XFER_APDU's shortest command, one zero byte. -/
def tablePort (op : Nat) : CmdPort :=
  { cmdOp := BitVec.ofNat 2 op
    cmd := if op = 2 then [0#8] else []
    isLast := false
    atpLoad := if op = 0 then some { checksum := .lrc, ifsc := 0#8, ifsd := 0#8, bwt := 0, msf := 0 } else none }

/-- The words that a row of the table stands for, in the epilogue kind `k`. The table has two spaces that share numbers, the PCB
byte and the 2-bit cmd_op; a word below 4 is read as a cmd_op, any other byte as a PCB (log entry 5). -/
def tableEncoded (k : ChecksumKind) (nbits w : Nat) : Option Encoded :=
  if nbits > 8 ∨ w ≥ 256 then none
  else if w < 4 then some (.port (tablePort w))
  else some (.block (cardFrame k (BitVec.ofNat 8 w) (tableData (BitVec.ofNat 8 w))))

/-- The instruction the decoder reads from a word of the opcode table. -/
def decodeTableWord (nbits w : Nat) : Option Instr :=
  match tableEncoded .lrc nbits w with
  | none => none
  | some e =>
    match decode .lrc e with
    | .ok i => some i
    | .error _ => none

end Sys2Proof
end

