-- ==== Sys2Proof/Machine/State.lean ====
section
/-! DEFINITION. The machine's state, its stops, and the state after hardware reset (10_state.md). -/

namespace Sys2Proof.Machine

/-- A byte space: (offset, byte) pairs, offsets strictly rising, no entry equal to what an unlisted offset reads as. -/
abbrev Memory := List Host.Cell

/-- A TPDU register (R11): the 16-bit `checksum` holds the CRC's value, or the LRC in bits 7..0 (D28). -/
structure Tpdu where
  nad : Byte
  pcb : Byte
  len : Byte
  data : List Byte
  checksum : Word16
  deriving DecidableEq, Repr, Inhabited

/-- The control state (R16). -/
inductive Phase where
  | uninit
  | idle
  | send
  | wait
  | read
  | eval
  deriving DecidableEq, Repr

/-- The error kinds (R180). The engine surfaces `io`, `consistency` and `reset` only. -/
inductive ErrKind where
  | io
  | timeout
  | consistency
  | sw (status : BitVec 16)
  | reset
  deriving DecidableEq, Repr

/-- What a host operation hands back (R123, R180). -/
inductive OpOutcome where
  | ok
  | respFinal (data : List Byte)
  | respMore (data : List Byte)
  | ack
  | err (kind : ErrKind)
  deriving DecidableEq, Repr

/-- The two loops of XFER_APDU (R127). -/
inductive ApduSide where
  | command
  | response
  deriving DecidableEq, Repr

/-- The locals of an XFER_APDU in progress (R127), and the outcome of its XFER_PART that has just ended (log entry 15). -/
structure ApduRun where
  cmd : List Byte
  off : Nat
  chunk : Nat
  out : List Byte
  side : ApduSide
  part : Option OpOutcome
  deriving DecidableEq, Repr

/-- The link's answer to one `LinkWrite` (R192). -/
inductive WriteDraw where
  | ok
  | ioErr
  deriving DecidableEq, Repr

/-- What the link gives to the reads, in order (R111, R192): a byte of the card-to-host stream, the end of the window,
or a link error. -/
inductive ReadDraw where
  | byte (b : Byte)
  | expired
  | ioErr
  deriving DecidableEq, Repr

/-- The output events (R9): a frame the link took, the timer armed for `k × bwt` ms, the cached ATP file deleted. -/
inductive Event where
  | linkWrite (bytes : List Byte)
  | timerArm (k : Byte) (bwt : Nat)
  | atpCacheDelete
  deriving DecidableEq, Repr

/-- Why the machine stops where no rule applies. Every one is safe: the spec gives these states no step, and the
invariant `Safety.Inv` keeps a run out of them. -/
inductive Fault where
  /-- Raised by a buffer access at an offset of 259 or more, which does not exist (R40). Safe. -/
  | noSuchOffset
  /-- Raised by TO_BYTES on a TPDU register that breaks R100's precondition `len ≤ 254`, `len(data) = len`. Safe. -/
  | malformedTpdu
  /-- Raised by the handle loop when `last_rx` passed the checks and its fields still give no block, which takes a
  `last_rx.data` of another length than `last_rx.len` (R11). Safe. -/
  | unreadableBlock
  /-- Raised in IDLE while an XFER_APDU is in progress and none of its parts has ended (R127). Safe. -/
  | apduOutOfStep
  deriving DecidableEq, Repr

/-- The spec's `refuse` (R9): the operation is outside what the spec gives a meaning, takes no step and changes no
state (R183). Every one is safe: the machine does nothing where the spec says the operation is refused. -/
inductive Refusal where
  /-- An instruction with no meaning yet, by its mnemonic; no arm of `exec` answers it. Safe. -/
  | notModelled (mnemonic : String)
  /-- Raised by XFER_PART and XFER_APDU in UNINIT (R120). Safe. -/
  | beforeInit
  /-- Raised by every host operation while another runs (R120). Safe. -/
  | busy
  /-- Raised by `cmd_op = 11` (R81, R120). Safe. -/
  | reservedCmdOp
  /-- Raised by XFER_PART and XFER_APDU when the ATP declares LRC and LRC is not supported (R96, R120). Safe. -/
  | lrcUnsupported
  /-- Raised by XFER_PART with more than `min(atp.ifsc, 254)` bytes (R122). Safe. -/
  | cmdTooLong
  /-- Raised by XFER_APDU without a byte (R127). Safe. -/
  | emptyCmd
  /-- Raised by XFER_APDU when `min(atp.ifsc, 254)` is 0, at its start or before a later fragment (R127). Safe. -/
  | zeroChunk
  /-- Raised by FORM_TPDU when `len > 254` or `len(data) ≠ len` (R101, D34). Safe. -/
  | formTpdu
  deriving DecidableEq, Repr

/-- The engine's state (R10, R40), the locals of a running XFER_APDU (R127), and the model's own fields for what lies
outside the engine: the command port, the outcome handed over, the link's draws, the trace of events, and the counter
that numbers free values. -/
structure State where
  orig : Tpdu
  lastTx : Tpdu
  lastRx : Tpdu
  rxLen : BitVec 9
  crcAcc : Word16
  lrcAcc : Byte
  phase : Phase
  resp : List Byte
  firstTransmission : Bool
  initialized : Bool
  nsMaster : Seq
  nsSlave : Seq
  recovery : Recovery
  ifsd : Byte
  atp : Atp
  nbwt : Byte
  txBuf : Memory
  rxBuf : Memory
  apdu : Option ApduRun
  port : Option CmdPort
  outcome : Option OpOutcome
  linkWr : List WriteDraw
  linkRd : List ReadDraw
  events : List Event
  free : Nat
  deriving DecidableEq, Repr

/-- A TPDU register of zeros. DESIGN CHOICE, log entry 7. -/
def Tpdu.zero : Tpdu := { nad := 0#8, pcb := 0#8, len := 0#8, data := [], checksum := 0#16 }

/-- The machine after hardware reset (R30). `phase`, `initialized`, `rxLen` and `resp` are the spec's; every other
element of R10 is unspecified there and stands at zero, DESIGN CHOICE, log entry 7. -/
def State.reset : State where
  orig := Tpdu.zero
  lastTx := Tpdu.zero
  lastRx := Tpdu.zero
  rxLen := 0#9
  crcAcc := 0#16
  lrcAcc := 0#8
  phase := .uninit
  resp := []
  firstTransmission := false
  initialized := false
  nsMaster := 0#1
  nsSlave := 0#1
  recovery := .ok
  ifsd := 0#8
  atp := { checksum := .lrc, ifsc := 0#8, ifsd := 0#8, bwt := 0, msf := 0 }
  nbwt := 0#8
  txBuf := []
  rxBuf := []
  apdu := none
  port := none
  outcome := none
  linkWr := []
  linkRd := []
  events := []
  free := 0

end Sys2Proof.Machine
end

