-- ==== Sys2Proof/Machine/Operands.lean ====
section
/-! DEFINITION. The operand forms of the blocks the engine sends and of the host operations: PCB assembly (R72), the
fragment limit (R97 e), the functions of a TPDU (R70, R71), and the numeric codes the spec gives its enumerations. -/

namespace Sys2Proof.Machine

/-- `NAD_HOST_TO_SE` (R5). -/
def nadHostToSe : Byte := 0x00#8

/-- `NAD_SE_TO_HOST`, the byte the wait keys on (R5, R111). -/
def nadSeToHost : Byte := 0x12#8

/-- `IFSD_DEFAULT` (R5). -/
def ifsdDefault : Byte := 254#8

/-- The capacity of a frame buffer, `TPDU_MAX` (R5, R40). -/
def tpduMax : Nat := 259

/-- An I-block's PCB: `(ns_master << 6) | (is_last ? 0x00 : 0x20)` (R72). -/
def pcbForI (nsMaster : Seq) (isLast : Bool) : Byte :=
  (nsMaster.setWidth 8 <<< 6) ||| (if isLast then 0x00#8 else 0x20#8)

/-- An R-block's PCB: `0x80 | (ns_slave << 4) | subtype` (R72). -/
def pcbForR (nsSlave : Seq) (subtype : Byte) : Byte := 0x80#8 ||| (nsSlave.setWidth 8 <<< 4) ||| subtype

/-- An S-request's PCB: `0xC0 | type` (R72). -/
def pcbForSReq (stype : Byte) : Byte := 0xC0#8 ||| stype

/-- An S-response's PCB: `0xE0 | type` (R72). -/
def pcbForSRsp (stype : Byte) : Byte := 0xE0#8 ||| stype

/-- `response_of(pcb) = pcb | 0x20` (R71). -/
def responseOf (pcb : Byte) : Byte := pcb ||| 0x20#8

/-- The S types (R66). -/
def typeResynch : Byte := 0x00#8
def typeIfs : Byte := 0x01#8
def typeAbort : Byte := 0x02#8
def typeWtx : Byte := 0x03#8
def typeSwreset : Byte := 0x0F#8

/-- `chained(t)` (R70): an I-block with M = 1. -/
def Tpdu.chained (t : Tpdu) : Bool := blockKind t.pcb == .I && pcbMore t.pcb

/-- `is_s_request(t)` (R71). -/
def Tpdu.isSRequest (t : Tpdu) : Bool := blockKind t.pcb == .S && !pcbRsp t.pcb

/-- A TPDU register holds a block that fits the formats: `len ≤ 254` and `len(data) = len` (R11). -/
def Tpdu.wf (t : Tpdu) : Bool := t.len != 255#8 && t.data.length == t.len.toNat

/-- The fragment size `min(atp.ifsc, 254)` (R97 e). -/
def fragLimit (ifsc : Byte) : Nat := min ifsc.toNat lenMax

/-- The code of a phase (R16). -/
def phaseCode : Phase → BitVec 3
  | .uninit => 0
  | .idle => 1
  | .send => 2
  | .wait => 3
  | .read => 4
  | .eval => 5

/-- The code of a `recovery` value (R22). -/
def recoveryCode : Recovery → BitVec 3
  | .ok => 0
  | .resend1 => 1
  | .resend2 => 2
  | .resync1 => 3
  | .resync2 => 4
  | .resync3 => 5
  | .warmReset => 6

/-- The code of a checksum kind (R24). -/
def checksumKindCode : ChecksumKind → BitVec 1
  | .lrc => 0
  | .crc => 1

/-- The code of an outcome (R180). -/
def outcomeCode : OpOutcome → Nat
  | .ok => 0
  | .respFinal _ => 1
  | .respMore _ => 2
  | .ack => 3
  | .err _ => 4

/-- The code of an error kind (R180). -/
def errKindCode : ErrKind → Nat
  | .io => 0
  | .timeout => 1
  | .consistency => 2
  | .sw _ => 3
  | .reset => 4

end Sys2Proof.Machine
end

