-- ==== Sys2Proof/Machine/Flags.lean ====
section
/-! DEFINITION. What the engine computes from its flags and for its checks: the buffers' reads that CHECKSUM_OK makes,
the five consistency checks (44_t1_consistency.md), the failure causes (R181) and the recovery transition (R166). -/

namespace Sys2Proof.Machine

/-- What an unlisted byte of a buffer reads as: 0x00. DESIGN CHOICE, log entry 8; no rule reads such a byte (U10). -/
def unlistedByte : Byte := 0x00#8

/-- One byte of a buffer. -/
def Memory.read : Memory → Nat → Byte
  | [], _ => unlistedByte
  | (k, v) :: m, a => if a = k then v else Memory.read m a

/-- The `n` bytes at offset `off`, with no check that the offsets exist. -/
def Memory.bytes (m : Memory) (off : Nat) : Nat → List Byte
  | 0 => []
  | n + 1 => m.read off :: m.bytes (off + 1) n

/-- `RXBUF[2]` as a number, the received frame's LEN (R102). -/
def frameLen (m : Memory) : Nat := (m.read 2).toNat

/-- CHECKSUM_OK on the received frame (R102), true on success (C14). A frame with LEN = 255 is not in the buffer
whole (R113): what the check gives there is free, log entry 13. -/
def checksumOk (k : ChecksumKind) (m : Memory) : Bool :=
  if m.read 2 = 255#8 then Config.longBlockSumOk m
  else
    m.bytes (3 + frameLen m) (epilogueLen k) == epilogue k (checksum k (m.bytes 0 (3 + frameLen m)))

/-- Check 1 (R136). -/
def check1 (s : State) : Bool := checksumOk s.atp.checksum s.rxBuf

/-- Check 2 (R137). -/
def check2 (s : State) : Bool := pcbReservedClear s.lastRx.pcb

/-- Check 3 for an S-block's type and LEN (R138). -/
def sLenOk (stype : BitVec 4) (len : Byte) : Bool :=
  if stype = 0x3#4 ∨ stype = 0x1#4 then len == 1#8
  else if stype = 0x2#4 ∨ stype = 0x0#4 then len == 0#8
  else if stype = 0xF#4 then len != 255#8
  else
    match Config.unknownSTypePolicy with
    | .consistencyFailure => false

/-- Check 3 (R138, R139). -/
def check3 (s : State) : Bool :=
  if s.lastRx.len = 255#8 then false
  else
    match blockKind s.lastRx.pcb with
    | .I => s.lastRx.len ≤ s.ifsd
    | .R => s.lastRx.len == 0#8
    | .S => sLenOk (pcbStype s.lastRx.pcb) s.lastRx.len

/-- Check 4 (R140, D9): both values of N(R) pass when `orig` is chained. -/
def check4 (s : State) : Bool :=
  match blockKind s.lastRx.pcb with
  | .I => pcbNs s.lastRx.pcb == s.nsSlave
  | .R => s.orig.chained || pcbNr s.lastRx.pcb == s.nsMaster
  | .S => true

/-- Check 5 (R141). -/
def check5 (s : State) : Bool :=
  if s.lastTx.isSRequest then s.lastRx.pcb == responseOf s.lastTx.pcb else true

/-- `Consistent()`: 0, or the number of the first check that fails (R135). -/
def consistent (s : State) : Nat :=
  if !check1 s then 1
  else if !check2 s then 2
  else if !check3 s then 3
  else if !check4 s then 4
  else if !check5 s then 5
  else 0

/-- The code of the response failure that the last exchange ended in: 6 for a timeout, the failing check's number for
an inconsistent block, 0 for none (R181). The engine does not store it. -/
def failureCause (s : State) : Nat := if s.rxLen = 0#9 then 6 else consistent s

/-- The recovery transition (R166); WARM_RESET is absorbing (D12). -/
def nextRecovery (r : Recovery) (firstTransmission : Bool) : Recovery :=
  match r with
  | .ok => .resend1
  | .resend1 => .resend2
  | .resend2 => if firstTransmission then .warmReset else .resync1
  | .resync1 => .resync2
  | .resync2 => .resync3
  | .resync3 => .warmReset
  | .warmReset => .warmReset

end Sys2Proof.Machine
end

