-- ==== Sys2Proof/Machine/Ops.lean ====
section
/-! DEFINITION. The named operations the rules call: buffer accesses, the checksum engines' registers, the framer
(41_framer.md), the exchange (R165), ending an operation (R187), and the exception's entry and return (R170, R186,
R188). -/

namespace Sys2Proof.Machine

/-! ### Buffers (R40) -/

/-- Store one byte, keeping the canonical form: offsets strictly rising, no entry that an unlisted offset reads as. -/
def Memory.write : Memory → Nat → Byte → Memory
  | [], a, b => if b = unlistedByte then [] else [(a, b)]
  | (k, v) :: m, a, b =>
    if a < k then (if b = unlistedByte then (k, v) :: m else (a, b) :: (k, v) :: m)
    else if a = k then (if b = unlistedByte then m else (a, b) :: m)
    else (k, v) :: Memory.write m a b

/-- Store a list of bytes at rising offsets. -/
def Memory.writeList (m : Memory) (off : Nat) : List Byte → Memory
  | [] => m
  | b :: bs => (m.write off b).writeList (off + 1) bs

/-- The canonical form: offsets strictly rising from `lo` and below 259, no entry that an unlisted offset reads as. -/
def Memory.wfFrom (lo : Nat) : Memory → Bool
  | [] => true
  | (k, v) :: m => lo ≤ k && k < tpduMax && v != unlistedByte && Memory.wfFrom (k + 1) m

/-- The canonical form of a buffer. -/
def Memory.wf (m : Memory) : Bool := Memory.wfFrom 0 m

/-- `MemWrite(off, n, v)` (R9): faults outside the buffer's 259 bytes. -/
def memWrite (m : Memory) (off : Nat) (bs : List Byte) : Except Fault Memory :=
  if off + bs.length ≤ tpduMax then .ok (m.writeList off bs) else .error .noSuchOffset

/-- `MemRead(off, n)` (R9): faults outside the buffer's 259 bytes. -/
def memRead (m : Memory) (off n : Nat) : Except Fault (List Byte) :=
  if off + n ≤ tpduMax then .ok (m.bytes off n) else .error .noSuchOffset

/-! ### The checksum engines' registers (R15) -/

/-- The accumulator of the engine that sums `bs` holds what R91 or R94 leaves in it; log entry 14. -/
def State.sum (s : State) (bs : List Byte) : State :=
  match s.atp.checksum with
  | .crc => { s with crcAcc := crcAccOf bs }
  | .lrc => { s with lrcAcc := lrc bs }

/-- The accumulators after CHECKSUM_OK on the received frame; free when its LEN is 255 (log entry 13). -/
def State.sumReceived (s : State) : State :=
  if s.rxBuf.read 2 = 255#8 then
    { s with
      crcAcc := Config.freeWord s.free
      lrcAcc := (Config.freeWord s.free).setWidth 8
      free := s.free + 1 }
  else s.sum (s.rxBuf.bytes 0 (3 + frameLen s.rxBuf))

/-! ### The framer (41_framer.md) -/

/-- The block with these fields and the checksum of its prologue and data (R101). -/
def sealTpdu (k : ChecksumKind) (nad pcb len : Byte) (data : List Byte) : Tpdu :=
  { nad := nad, pcb := pcb, len := len, data := data, checksum := checksum k (nad :: pcb :: len :: data) }

/-- FORM_TPDU (R101): refused outside its precondition (D34). -/
def formTpdu (nad pcb len : Byte) (data : List Byte) (s : State) : Except Refusal (Tpdu × State) :=
  if len = 255#8 ∨ data.length ≠ len.toNat then .error .formTpdu
  else .ok (sealTpdu s.atp.checksum nad pcb len data, s.sum (nad :: pcb :: len :: data))

/-- TO_BYTES (R100): the buffer with the frame in it, and the frame's length. -/
def toBytes (k : ChecksumKind) (t : Tpdu) (buf : Memory) : Except Fault (Memory × Nat) :=
  if !t.wf then .error .malformedTpdu
  else do
    let len := t.len.toNat
    let b ← memWrite buf 0 [t.nad]
    let b ← memWrite b 1 [t.pcb]
    let b ← memWrite b 2 [t.len]
    let b ← memWrite b 3 t.data
    let summed ← memRead b 0 (3 + len)
    let b ← memWrite b (3 + len) (epilogue k (checksum k summed))
    pure (b, 3 + len + epilogueLen k)

/-- PARSE (R104). -/
def parse (k : ChecksumKind) (m : Memory) : Tpdu :=
  { nad := m.read 0
    pcb := m.read 1
    len := m.read 2
    data := m.bytes 3 (min (frameLen m) lenMax)
    checksum := epilogueValue (m.bytes (3 + frameLen m) (epilogueLen k)) }

/-! ### The exchange's start (R165) -/

/-- `last_tx <- t; phase <- SEND`: the steps of the phases SEND, WAIT and READ do the rest of R165. -/
def State.exchange (s : State) (t : Tpdu) : State := { s with lastTx := t, phase := .send }

/-- FORM_TPDU with NAD 0x00 (R126), then the exchange of the block. -/
def sendBlock (pcb len : Byte) (data : List Byte) (s : State) : Host.Outcome State Fault Refusal :=
  match formTpdu nadHostToSe pcb len data s with
  | .error r => .refused r
  | .ok (t, s') => .next (s'.exchange t)

/-- `orig <- FORM_TPDU(nad, pcb, len, data)`, then the exchange of `orig` (R122, R153). -/
def sendOrig (nad pcb len : Byte) (data : List Byte) (s : State) : Host.Outcome State Fault Refusal :=
  match formTpdu nad pcb len data s with
  | .error r => .refused r
  | .ok (t, s') => .next ({ s' with orig := t }.exchange t)

/-- "Retransmit": the exchange of `orig` as it stands (R148). -/
def retransmit (s : State) : Host.Outcome State Fault Refusal := .next (s.exchange s.orig)

/-! ### Ending an operation (R9, R187) -/

/-- `phase <- IDLE` and the outcome to whoever asked: the host, or the XFER_APDU whose part this was (R127). -/
def State.endOp (s : State) (o : OpOutcome) : State :=
  match s.apdu with
  | none => { s with phase := .idle, outcome := some o }
  | some x => { s with phase := .idle, apdu := some { x with part := some o } }

/-- A response fits the capacity `RESP_MAX` (R17). -/
def fitsResp (respMax : Option Nat) (data : List Byte) : Bool :=
  match respMax with
  | none => true
  | some n => data.length ≤ n

/-- No more than the capacity holds (R17). -/
def capResp (respMax : Option Nat) (data : List Byte) : List Byte :=
  match respMax with
  | none => data
  | some n => data.take n

/-- `resp <- data`, for any capacity (R17). What `resp` holds of a response that exceeds it is not stated: a free value
within the capacity, log entry 26. -/
def State.storeResp (respMax : Option Nat) (data : List Byte) (s : State) : State :=
  if fitsResp respMax data then { s with resp := data }
  else { s with resp := capResp respMax (Config.freeBytes s.free), free := s.free + 1 }

/-- `resp` is unspecified after an ERR (R187): a free value. Log entry 11. -/
def State.loseResp (s : State) : State :=
  { s with resp := capResp Config.respMax (Config.freeBytes s.free), free := s.free + 1 }

/-- `raise <Kind>` (R9, R187): state written before it stays written. -/
def State.raise (s : State) (k : ErrKind) : State := s.loseResp.endOp (.err k)

/-! ### The exception: a response failure, its entry and its return -/

/-- The action of a new `recovery` value (R167 to R169). -/
def recoveryAction (s : State) : Host.Outcome State Fault Refusal :=
  match s.recovery with
  | .ok => .next s
  | .resend1 => sendBlock (pcbForR s.nsSlave 0x02#8) 0#8 [] s
  | .resend2 => sendBlock (pcbForR s.nsSlave 0x02#8) 0#8 [] s
  | .resync1 => sendBlock (pcbForSReq typeResynch) 0#8 [] s
  | .resync2 => sendBlock (pcbForSReq typeResynch) 0#8 [] s
  | .resync3 => sendBlock (pcbForSReq typeResynch) 0#8 [] s
  | .warmReset => sendBlock (pcbForSReq typeSwreset) 0#8 [] { s with events := s.events ++ [.atpCacheDelete] }

/-- Entry: `do_recovery` up to the block it sends (R170, R186). `recovery` advances first, and nothing is saved. The
value is never OK after the advance, so the first arm of `recoveryAction` is not taken. -/
def doRecovery (s : State) : Host.Outcome State Fault Refusal :=
  recoveryAction { s with recovery := nextRecovery s.recovery s.firstTransmission }

/-- The last block sent was the SWRESET request of the WARM_RESET action (R169): no other rule sends PCB CF. DEDUCED,
log entry 16. -/
def State.inWarmReset (s : State) : Bool := s.lastTx.pcb == pcbForSReq typeSwreset

/-- What a response failure does: inside the WARM_RESET action the operation ends at once (R169), elsewhere one call of
`do_recovery` (R172). -/
def responseFailure (s : State) : Host.Outcome State Fault Refusal :=
  if s.inWarmReset then .next (s.raise .reset) else doRecovery s

/-- Return: step 3 of the handle loop, taken on every consistent block (R172, R188). -/
def State.settle (s : State) : State := { s with recovery := .ok, firstTransmission := false }

end Sys2Proof.Machine
end

