-- ==== Sys2Proof/Machine/HostOps.lean ====
section
/-! DEFINITION. The host operations (43_t1_host_ops.md): acceptance on the command port, INIT, XFER_PART, and XFER_APDU
with the wrapper that runs its parts. -/

namespace Sys2Proof.Machine

/-- An operation runs: a busy phase, or an XFER_APDU between two of its parts, which holds the port (R120, R127). -/
def State.busy (s : State) : Bool :=
  s.apdu.isSome || (s.phase != .uninit && s.phase != .idle)

/-- Acceptance of INIT (R120). -/
def acceptInit (s : State) : Option Refusal := if s.busy then some .busy else none

/-- Acceptance of XFER_PART and XFER_APDU (R120), for either value of LRC_SUPPORTED (R96). -/
def acceptXfer (lrcSupported : Bool) (s : State) : Option Refusal :=
  if s.busy then some .busy
  else if s.phase = .uninit then some .beforeInit
  else if s.atp.checksum = .lrc ∧ lrcSupported = false then some .lrcUnsupported
  else none

/-! ### INIT (R121) -/

/-- The record INIT goes on with: none when the load failed, or declares LRC while LRC is not supported (R121, R96). -/
def usableAtp (lrcSupported : Bool) (load : Option Atp) : Option Atp :=
  match load with
  | none => none
  | some a => if a.checksum = .lrc ∧ lrcSupported = false then none else some a

/-- The values a successful INIT leaves (R31). -/
def State.initWith (s : State) (a : Atp) : State :=
  { s with
    atp := a
    nsMaster := 0#1
    nsSlave := 0#1
    firstTransmission := true
    ifsd := ifsdDefault
    recovery := .ok
    nbwt := 1#8
    rxLen := 0#9
    resp := []
    initialized := true
    phase := .idle
    outcome := some .ok }

/-- A failed INIT (R121): uninitialised, and the elements R187 names are free values. Log entry 12. -/
def State.initFailed (s : State) : State :=
  { s with
    initialized := false
    phase := .uninit
    recovery := Config.freeRecovery s.free
    firstTransmission := Config.freeFlag s.free
    nsMaster := Config.freeNsMaster s.free
    nsSlave := Config.freeNsSlave s.free
    atp := Config.freeAtp s.free
    resp := capResp Config.respMax (Config.freeBytes s.free)
    free := s.free + 1
    outcome := some (.err .io) }

/-- INIT for either value of LRC_SUPPORTED (R121). -/
def initOp (lrcSupported : Bool) (load : Option Atp) (s : State) : Host.Outcome State Fault Refusal :=
  match acceptInit s with
  | some r => .refused r
  | none =>
    match usableAtp lrcSupported load with
    | some a => .next (s.initWith a)
    | none => .next s.initFailed

/-- `INIT` (R121). -/
def execInit (load : Option Atp) (s : State) : Host.Outcome State Fault Refusal :=
  initOp Config.lrcSupported load s

/-! ### XFER_PART (R122) -/

/-- An accepted XFER_PART up to the start of its first exchange: the I-block of R124, or with an empty command the
R-block of R125 (D8). -/
def startPart (cmd : List Byte) (isLast : Bool) (s : State) : Host.Outcome State Fault Refusal :=
  if fragLimit s.atp.ifsc < cmd.length then .refused .cmdTooLong
  else if cmd = [] then sendOrig nadHostToSe (pcbForR s.nsSlave 0x00#8) 0#8 [] s
  else sendOrig nadHostToSe (pcbForI s.nsMaster isLast) (BitVec.ofNat 8 cmd.length) cmd s

/-- XFER_PART for either value of LRC_SUPPORTED. -/
def xferPartOp (lrcSupported : Bool) (cmd : List Byte) (isLast : Bool) (s : State) : Host.Outcome State Fault Refusal :=
  match acceptXfer lrcSupported s with
  | some r => .refused r
  | none => startPart cmd isLast { s with outcome := none }

/-- `XFER_PART` (R122). -/
def execXferPart (cmd : List Byte) (isLast : Bool) (s : State) : Host.Outcome State Fault Refusal :=
  xferPartOp Config.lrcSupported cmd isLast s

/-! ### XFER_APDU (R127) -/

/-- One turn of R127's command-side loop: the fragment at `off`, with `chunk` read anew. -/
def sendFragment (x : ApduRun) (s : State) : Host.Outcome State Fault Refusal :=
  let chunk := fragLimit s.atp.ifsc
  let left := x.cmd.drop x.off
  if chunk = 0 then .refused .zeroChunk
  else if chunk < left.length then
    startPart (left.take chunk) false { s with apdu := some { x with chunk := chunk, side := .command, part := none } }
  else startPart left true { s with apdu := some { x with chunk := chunk, side := .response, part := none } }

/-- XFER_APDU for either value of LRC_SUPPORTED. -/
def xferApduOp (lrcSupported : Bool) (cmd : List Byte) (s : State) : Host.Outcome State Fault Refusal :=
  match acceptXfer lrcSupported s with
  | some r => .refused r
  | none =>
    if cmd = [] then .refused .emptyCmd
    else
      sendFragment { cmd := cmd, off := 0, chunk := 0, out := [], side := .command, part := none }
        { s with outcome := none }

/-- `XFER_APDU` (R127). -/
def execXferApdu (cmd : List Byte) (s : State) : Host.Outcome State Fault Refusal :=
  xferApduOp Config.lrcSupported cmd s

/-- The XFER_APDU ends with an error; `resp` is unspecified (R187). -/
def State.apduErr (s : State) (k : ErrKind) : State := { s.loseResp with apdu := none, outcome := some (.err k) }

/-- The wrapper goes on after a part of it has ended with `o` (R127). -/
def resumeApdu (x : ApduRun) (o : OpOutcome) (s : State) : Host.Outcome State Fault Refusal :=
  match x.side, o with
  | _, .err k => .next (s.apduErr k)
  | .command, .ack => sendFragment { x with off := x.off + x.chunk } s
  | .command, _ => .next (s.apduErr .consistency)
  | .response, .respFinal d =>
    let s1 := { s with apdu := none, outcome := some (.respFinal (x.out ++ d)) }
    .next (s1.storeResp Config.respMax (x.out ++ d))
  | .response, .respMore d => startPart [] true { s with apdu := some { x with out := x.out ++ d, part := none } }
  | .response, _ => .next (s.apduErr .consistency)

end Sys2Proof.Machine
end

