-- ==== Sys2Proof/Machine/IBlock.lean ====
section
/-! DEFINITION. The meaning of a received I-block (R146). -/

namespace Sys2Proof.Machine

/-- `I` received (R146). -/
def execI (_ns : Seq) (more : Bool) (data : List Byte) (s : State) : Host.Outcome State Fault Refusal :=
  let s1 := if blockKind s.orig.pcb = .I then { s with nsMaster := s.nsMaster.flip } else s
  let s2 := { s1 with nsSlave := s1.nsSlave.flip }.storeResp Config.respMax data
  .next (s2.endOp (if more then .respMore data else .respFinal data))

end Sys2Proof.Machine
end

