-- ==== Sys2Proof/Machine/RBlock.lean ====
section
/-! DEFINITION. The meanings of received R-blocks (R147): the three kinds are processed alike, the error kind is not
read. -/

namespace Sys2Proof.Machine

/-- R147's four cases. The last one cannot be reached from the handle loop, since check 4 has failed there (C5). -/
def processR (nr : Seq) (s : State) : Host.Outcome State Fault Refusal :=
  if s.orig.chained ∧ nr = s.nsMaster.flip then
    .next ({ s with nsMaster := s.nsMaster.flip, resp := [] }.endOp .ack)
  else if s.orig.chained ∧ nr = s.nsMaster then retransmit s
  else if ¬ s.orig.chained ∧ nr = s.nsMaster then retransmit s
  else doRecovery s

/-- `R_OK` received (R147). -/
def execROk (nr : Seq) (s : State) : Host.Outcome State Fault Refusal := processR nr s

/-- `R_CKERR` received (R147). -/
def execRCkerr (nr : Seq) (s : State) : Host.Outcome State Fault Refusal := processR nr s

/-- `R_OTHER` received (R147). -/
def execROther (nr : Seq) (s : State) : Host.Outcome State Fault Refusal := processR nr s

/-- An R-block with error kind 11 received: no row of the table, processed like any R-block (U2, D36, log entry 20). -/
def execRUndefined (nr : Seq) (s : State) : Host.Outcome State Fault Refusal := processR nr s

end Sys2Proof.Machine
end

