-- ==== Sys2Proof/Machine/SBlock.lean ====
section
/-! DEFINITION. The meanings of received S-blocks (R149 to R156). -/

namespace Sys2Proof.Machine

/-- Both sequence numbers to 0, together (R32). -/
def State.zeroSeq (s : State) : State := { s with nsMaster := 0#1, nsSlave := 0#1 }

/-- `S_RESYNCH_REQ` received (R152): `orig` stays as it is (D17). -/
def execSResynchReq (s : State) : Host.Outcome State Fault Refusal :=
  sendBlock (pcbForSRsp typeResynch) 0#8 [] s.zeroSeq

/-- `S_RESYNCH_RSP` received (R153): `orig` renumbered to 0 and retransmitted. -/
def execSResynchRsp (s : State) : Host.Outcome State Fault Refusal :=
  if blockKind s.orig.pcb = .I ∧ pcbNs s.orig.pcb = 1#1 then
    sendOrig s.orig.nad (s.orig.pcb &&& 0xBF#8) s.orig.len s.orig.data s.zeroSeq
  else if blockKind s.orig.pcb = .R ∧ pcbNr s.orig.pcb = 1#1 then
    sendOrig s.orig.nad (s.orig.pcb &&& 0xEF#8) 0#8 [] s.zeroSeq
  else retransmit s.zeroSeq

/-- `S_IFS_REQ` received (R151): the value is stored as received, 0x00 and 0xFF included (U7). -/
def execSIfsReq (ifsc : Byte) (s : State) : Host.Outcome State Fault Refusal :=
  sendBlock (pcbForSRsp typeIfs) 1#8 [ifsc] { s with atp := { s.atp with ifsc := ifsc } }

/-- `S_WTX_REQ` received (R150): the next window is `mult × atp.bwt`. -/
def execSWtxReq (mult : Byte) (s : State) : Host.Outcome State Fault Refusal :=
  sendBlock (pcbForSRsp typeWtx) 1#8 [mult] { s with nbwt := mult }

/-- `S_SWRESET_RSP` received (R154): a record the parser gives replaces the store, a failed parse leaves it (D25). -/
def execSSwresetRsp (data : List Byte) (s : State) : Host.Outcome State Fault Refusal :=
  let s1 := { s with atp := (Config.atpParse data).getD s.atp }
  .next (s1.zeroSeq.raise .reset)

/-- `S_ABORT_REQ` received (R155): "surface as error", nothing sent. -/
def execSAbortReq (s : State) : Host.Outcome State Fault Refusal := .next (s.raise .reset)

/-- An S-block the engine has no handler for (R156): like the unsupported ABORT request. -/
def noHandler (s : State) : Host.Outcome State Fault Refusal := .next (s.raise .reset)

/-- `S_ABORT_RSP` received (R156). -/
def execSAbortRsp (s : State) : Host.Outcome State Fault Refusal := noHandler s

/-- `S_WTX_RSP` received (R156). -/
def execSWtxRsp (_mult : Byte) (s : State) : Host.Outcome State Fault Refusal := noHandler s

/-- `S_IFS_RSP` received (R156). -/
def execSIfsRsp (_ifsc : Byte) (s : State) : Host.Outcome State Fault Refusal := noHandler s

/-- `S_SWRESET_REQ` received (R156). -/
def execSSwresetReq (_data : List Byte) (s : State) : Host.Outcome State Fault Refusal := noHandler s

end Sys2Proof.Machine
end

