-- ==== Sys2Proof/Machine/Dispatch.lean ====
section
/-! DEFINITION. One arm per instruction, each a direct call of its meaning. -/

namespace Sys2Proof.Machine

/-- The meaning of an instruction: what the engine does with a received block that has passed the checks (R145), or
with a host operation on the command port (R120). -/
def exec (i : Instr) (s : State) : Host.Outcome State Fault Refusal :=
  match i with
  | .i ns more data => Sys2Proof.Machine.execI ns more data s
  | .rOk nr => Sys2Proof.Machine.execROk nr s
  | .rCkerr nr => Sys2Proof.Machine.execRCkerr nr s
  | .rOther nr => Sys2Proof.Machine.execROther nr s
  | .sResynchReq => Sys2Proof.Machine.execSResynchReq s
  | .sResynchRsp => Sys2Proof.Machine.execSResynchRsp s
  | .sIfsReq ifsc => Sys2Proof.Machine.execSIfsReq ifsc s
  | .sIfsRsp ifsc => Sys2Proof.Machine.execSIfsRsp ifsc s
  | .sAbortReq => Sys2Proof.Machine.execSAbortReq s
  | .sAbortRsp => Sys2Proof.Machine.execSAbortRsp s
  | .sWtxReq mult => Sys2Proof.Machine.execSWtxReq mult s
  | .sWtxRsp mult => Sys2Proof.Machine.execSWtxRsp mult s
  | .sSwresetReq data => Sys2Proof.Machine.execSSwresetReq data s
  | .sSwresetRsp data => Sys2Proof.Machine.execSSwresetRsp data s
  | .init load => Sys2Proof.Machine.execInit load s
  | .xferPart cmd isLast => Sys2Proof.Machine.execXferPart cmd isLast s
  | .xferApdu cmd => Sys2Proof.Machine.execXferApdu cmd s

end Sys2Proof.Machine
end

