-- ==== Sys2Proof/Machine/Phases.lean ====
section
/-! DEFINITION. What a step does in each phase (R16): the command port, the exchange's three phases (R165, R110 to
R113), the handle loop's pass (R172), the wrapper between two parts of an XFER_APDU (R127); and the words the host
places for `withFetchWord`. -/

namespace Sys2Proof.Machine

/-! ### The command port (R120) -/

/-- The operation on the port, taken off it. -/
def portPhase (c : CmdPort) (s : State) : Host.Outcome State Fault Refusal :=
  match decodeCmd c with
  | .ok i => exec i { s with port := none }
  | .error _ => .refused .reservedCmdOp

/-! ### IDLE -/

/-- IDLE with an XFER_APDU in progress: its wrapper goes on (R127). Without one the engine waits for the host. -/
def idlePhase (s : State) : Host.Outcome State Fault Refusal :=
  match s.apdu with
  | none => .next s
  | some x =>
    match x.part with
    | none => .fault .apduOutOfStep
    | some o => resumeApdu x o s

/-! ### SEND (R110) -/

/-- WRITE_TPDU's state before the link's answer: the frame in TXBUF, the accumulator of its sum. -/
def State.framed (s : State) (buf : Memory) : State :=
  { s.sum (s.lastTx.nad :: s.lastTx.pcb :: s.lastTx.len :: s.lastTx.data) with txBuf := buf }

/-- WRITE_TPDU (R110) and the timer's start (R190). With no answer from the link yet the write blocks. -/
def sendPhase (s : State) : Host.Outcome State Fault Refusal :=
  match toBytes s.atp.checksum s.lastTx s.txBuf with
  | .error f => .fault f
  | .ok (buf, n) =>
    match memRead buf 0 n with
    | .error f => .fault f
    | .ok bytes =>
      match s.linkWr with
      | [] => .next s
      | .ioErr :: rest => .next ({ s.framed buf with linkWr := rest }.raise .io)
      | .ok :: rest =>
        .next { s.framed buf with
          linkWr := rest
          events := s.events ++ [.linkWrite bytes, .timerArm s.nbwt s.atp.bwt]
          phase := .wait }

/-! ### WAIT (R111) -/

/-- What polling the link comes to. -/
inductive WaitResult where
  | present (rest : List ReadDraw)
  | timeout (rest : List ReadDraw)
  | err (rest : List ReadDraw)
  | pending
  deriving DecidableEq, Repr

/-- Poll until the byte 0x12, the window's end or a link error; any other byte is discarded (R111, D20). -/
def pollLink : List ReadDraw → WaitResult
  | [] => .pending
  | .byte b :: rest => if b = nadSeToHost then .present rest else pollLink rest
  | .expired :: rest => .timeout rest
  | .ioErr :: rest => .err rest

/-- WAIT_FOR_RESPONSE (R111) and what R165 does with its result; `nbwt` is 1 again after it (D19). -/
def waitPhase (s : State) : Host.Outcome State Fault Refusal :=
  match pollLink s.linkRd with
  | .pending => .next { s with linkRd := [] }
  | .err rest => .next ({ s with linkRd := rest, nbwt := 1#8 }.raise .io)
  | .timeout rest => .next { s with linkRd := rest, nbwt := 1#8, rxLen := 0#9, phase := .eval }
  | .present rest =>
    match memWrite s.rxBuf 0 [nadSeToHost] with
    | .error f => .fault f
    | .ok buf =>
      .next { s with
        linkRd := rest
        nbwt := 1#8
        rxBuf := buf
        lastRx := { s.lastRx with nad := nadSeToHost }
        phase := .read }

/-! ### READ (R112, R113) -/

/-- The answer to one `LinkRead(n)`. -/
inductive ReadResult where
  | got (bytes : List Byte) (rest : List ReadDraw)
  | err (rest : List ReadDraw)
  | pending
  deriving DecidableEq, Repr

/-- `LinkRead(n)` (R192): n bytes or a link error. No deadline applies inside a block (R112), so a window's end met here
means nothing. -/
def readLink : Nat → List ReadDraw → ReadResult
  | 0, draws => .got [] draws
  | _ + 1, [] => .pending
  | n + 1, .byte b :: rest =>
    match readLink n rest with
    | .got bs rest' => .got (b :: bs) rest'
    | r => r
  | n + 1, .expired :: rest => readLink (n + 1) rest
  | _ + 1, .ioErr :: rest => .err rest

/-- What the reads of a block's data and epilogue come to, after its PCB and LEN. -/
inductive BodyResult where
  | got (data epi : List Byte) (rest : List ReadDraw)
  | errInData (rest : List ReadDraw)
  | errInEpilogue (data : List Byte) (rest : List ReadDraw)
  | pending
  deriving DecidableEq, Repr

/-- `LinkRead(L)`, then `LinkRead(E)` (R112). -/
def readBody (len epiLen : Nat) (draws : List ReadDraw) : BodyResult :=
  match readLink len draws with
  | .pending => .pending
  | .err rest => .errInData rest
  | .got data rest =>
    match readLink epiLen rest with
    | .pending => .pending
    | .err rest' => .errInEpilogue data rest'
    | .got epi rest' => .got data epi rest'

/-- The block is in RXBUF: `last_rx <- PARSE`, `rx_len <- 3 + L + E` (R112). -/
def State.received (s : State) (buf : Memory) (rest : List ReadDraw) : State :=
  { s with
    rxBuf := buf
    linkRd := rest
    lastRx := parse s.atp.checksum buf
    rxLen := BitVec.ofNat 9 (3 + frameLen buf + epilogueLen s.atp.checksum)
    phase := .eval }

/-- A block with LEN = 255 has been read (R113): its data and checksum are free values, log entry 13. -/
def State.receivedLong (s : State) (buf : Memory) (rest : List ReadDraw) : State :=
  { s with
    rxBuf := buf
    linkRd := rest
    lastRx :=
      { nad := buf.read 0
        pcb := buf.read 1
        len := 255#8
        data := (Config.freeBytes s.free).take lenMax
        checksum := Config.freeWord s.free }
    free := s.free + 1
    rxLen := BitVec.ofNat 9 (258 + epilogueLen s.atp.checksum)
    phase := .eval }

/-- A read failed: `raise Io` with what was stored before it (R165, D23). -/
def State.readFailed (s : State) (buf : Memory) (rest : List ReadDraw) : State :=
  { s with rxBuf := buf, linkRd := rest }.raise .io

/-- READ_TPDU after its PCB and LEN (R112, R113). -/
def readRest (pcb len : Byte) (draws : List ReadDraw) (s : State) : Host.Outcome State Fault Refusal :=
  match memWrite s.rxBuf 1 [pcb, len] with
  | .error f => .fault f
  | .ok buf =>
    match readBody len.toNat (epilogueLen s.atp.checksum) draws with
    | .pending => .next s
    | .errInData rest => .next (s.readFailed buf rest)
    | .errInEpilogue data rest =>
      match memWrite buf 3 (data.take lenMax) with
      | .error f => .fault f
      | .ok buf' => .next (s.readFailed buf' rest)
    | .got data epi rest =>
      match memWrite buf 3 (data.take lenMax) with
      | .error f => .fault f
      | .ok buf' =>
        if len = 255#8 then .next (s.receivedLong buf' rest)
        else
          match memWrite buf' (3 + len.toNat) epi with
          | .error f => .fault f
          | .ok buf'' => .next (s.received buf'' rest)

/-- READ_TPDU (R112). With a read not answered yet the engine blocks, and the step changes nothing. -/
def readPhase (s : State) : Host.Outcome State Fault Refusal :=
  match readLink 2 s.linkRd with
  | .got [pcb, len] rest => readRest pcb len rest s
  | .err rest => .next (s.readFailed s.rxBuf rest)
  | _ => .next s

/-! ### EVAL (R172) -/

/-- Step 4: dispatch on the block in `last_rx` (R145). -/
def dispatchBlock (s : State) : Host.Outcome State Fault Refusal :=
  match decodeFields s.lastRx.pcb s.lastRx.len s.lastRx.data with
  | .ok i => exec i s
  | .error (.undefinedErrKind nr) => execRUndefined nr s
  | .error _ => .fault .unreadableBlock

/-- One pass of the handle loop (R172), and the end of the WARM_RESET action (R169): a consistent block there is the
SWRESET response, by check 5. -/
def evalPhase (s : State) : Host.Outcome State Fault Refusal :=
  if s.rxLen = 0#9 then responseFailure s
  else if consistent s ≠ 0 then responseFailure s.sumReceived
  else dispatchBlock s.sumReceived.settle

/-! ### The words that `withFetchWord` places (log entry 6) -/

/-- The host operation on the port of an engine that may accept it: idle, and for a transfer initialised, with a
fragment size that is not 0. -/
def State.withPort (s : State) (c : CmdPort) : State :=
  if c.cmdOp = 0#2 then
    { s with port := some c, apdu := none, phase := if s.phase = .uninit then .uninit else .idle }
  else
    { s with
      port := some c
      apdu := none
      phase := .idle
      initialized := true
      atp := if s.atp.ifsc = 0#8 then { s.atp with ifsc := ifsdDefault } else s.atp }

/-- The received block in RXBUF and `last_rx`, in EVAL, with the sequence numbers and `last_tx` that the five checks
ask for it. -/
def State.withBlock (s : State) (bytes : List Byte) : State :=
  let buf := s.rxBuf.writeList 0 bytes
  let t := parse s.atp.checksum buf
  { s with
    port := none
    phase := .eval
    rxBuf := buf
    lastRx := t
    rxLen := BitVec.ofNat 9 bytes.length
    lastTx := if s.lastTx.isSRequest then Tpdu.zero else s.lastTx
    nsSlave := if blockKind t.pcb = .I then pcbNs t.pcb else s.nsSlave
    nsMaster := if blockKind t.pcb = .R ∧ ¬ s.orig.chained then pcbNr t.pcb else s.nsMaster }

/-- The instruction of a table word, placed where the step takes its next instruction from. -/
def State.placeWord (s : State) (nbits w : Nat) : State :=
  match tableEncoded s.atp.checksum nbits w with
  | some (.port c) => s.withPort c
  | some (.block bytes) => s.withBlock bytes
  | none => s

end Sys2Proof.Machine
end

