-- ==== Sys2Proof/Machine/Step.lean ====
section
/-! DEFINITION. One step of the engine. -/

namespace Sys2Proof.Machine

/-- One step: an operation on the command port is taken or refused (R120); otherwise the phase says what is done
(R16). -/
def step (s : State) : Host.Outcome State Fault Refusal :=
  match s.port with
  | some c => portPhase c s
  | none =>
    match s.phase with
    | .uninit => .next s
    | .idle => idlePhase s
    | .send => sendPhase s
    | .wait => waitPhase s
    | .read => readPhase s
    | .eval => evalPhase s

/-- `s` with the table's word `w` stored as the next instruction (log entry 6). -/
def State.withFetchWord (s : State) (nbits w : Nat) : State := s.placeWord nbits w

end Sys2Proof.Machine
end

