-- ==== Sys2Proof/Safety.lean ====
section
/-! DEFINITION. What counts as a safe run: the invariant of the engine's states, the stops a run may not come to, and
the words the claims use. -/

namespace Sys2Proof.Safety

open Sys2Proof.Machine

/-- The PCBs an original block can have: the four I-blocks and the two solicitations (R72, R124, R125). -/
def origPcbs : List Byte := [0x00#8, 0x20#8, 0x40#8, 0x60#8, 0x80#8, 0x90#8]

/-- Every PCB the engine sends (R67, column "Engine sends it by", and R72): R_CKERR is not among them. -/
def sentPcbs : List Byte :=
  origPcbs ++ [0x82#8, 0x92#8, 0xC0#8, 0xCF#8, 0xE0#8, 0xE1#8, 0xE3#8]

/-- What holds of the engine's state in every run from reset, and is kept by every step from any state it holds in. -/
structure Inv (s : State) : Prop where
  /-- TXBUF is in its canonical form. -/
  txBuf : s.txBuf.wf = true
  /-- RXBUF is in its canonical form. -/
  rxBuf : s.rxBuf.wf = true
  /-- `orig` holds `len ≤ 254` data bytes, as many as its LEN says (R11). -/
  origWf : s.orig.wf = true
  /-- `last_tx` holds `len ≤ 254` data bytes, as many as its LEN says (R11). -/
  lastTxWf : s.lastTx.wf = true
  /-- Every block the engine builds has NAD 0x00 (R126). -/
  origNad : s.orig.nad = 0x00#8
  lastTxNad : s.lastTx.nad = 0x00#8
  /-- `orig` is an I-block or a solicitation (R12). -/
  origPcb : s.orig.pcb ∈ origPcbs
  /-- The engine sends no other PCB (R67, R72). -/
  lastTxPcb : s.lastTx.pcb ∈ sentPcbs
  /-- `initialized` is false exactly in UNINIT (R19, R30, R121). -/
  initialized : s.initialized = false ↔ s.phase = .uninit
  /-- `ifsd` is 254 in every initialised state (R34 c). -/
  ifsd : s.phase ≠ .uninit → s.ifsd = 254#8
  /-- The multiplier is back at 1 once the wait is over (R25, R165). -/
  nbwt : s.phase = .read ∨ s.phase = .eval → s.nbwt = 1#8
  /-- Between WAIT and READ the NAD byte is in the buffer (R28, R112). -/
  readNad : s.phase = .read → s.rxBuf.read 0 = 0x12#8
  /-- A received block started with 0x12 (R142 a). -/
  evalNad : s.phase = .eval → s.rxLen ≠ 0#9 → s.lastRx.nad = 0x12#8
  /-- `rx_len` is the received block's length (R14). -/
  evalLen : s.phase = .eval → s.rxLen ≠ 0#9 →
    s.rxLen = BitVec.ofNat 9 (3 + s.lastRx.len.toNat + epilogueLen s.atp.checksum)
  /-- `last_rx` is what PARSE reads in RXBUF, for a legal LEN (R112). -/
  evalParse : s.phase = .eval → s.rxLen ≠ 0#9 → s.lastRx.len ≠ 255#8 → s.lastRx = parse s.atp.checksum s.rxBuf
  /-- No operation runs in UNINIT (R120). -/
  uninitApdu : s.phase = .uninit → s.apdu = none
  /-- Between two parts of an XFER_APDU the part's outcome is there (R127). -/
  idleApdu : s.phase = .idle → ∀ x, s.apdu = some x → x.part.isSome = true
  /-- No outcome stands while an operation runs (R120: one outcome, when the operation ends). -/
  noOutcome : s.busy = true → s.outcome = none

/-- A step from the state does not fault. -/
def NoFault (s : State) : Prop := ∀ f, step s ≠ .fault f

/-- A run of `n` steps from the state comes to no fault. -/
def SafeRun (n : Nat) (s : State) : Prop := ∀ f, Sys2Proof.core.run n s ≠ .fault f

/-- The frame of a block on the wire (R41): NAD, PCB, LEN, data, epilogue. -/
def image (k : ChecksumKind) (nad pcb : Byte) (data : List Byte) : List Byte :=
  nad :: pcb :: BitVec.ofNat 8 data.length :: data ++
    epilogue k (checksum k (nad :: pcb :: BitVec.ofNat 8 data.length :: data))

/-- The frames the link took, in order: the host-to-card stream (R40). -/
def framesSent (events : List Event) : List (List Byte) :=
  events.filterMap fun e => match e with
    | .linkWrite bytes => some bytes
    | .timerArm _ _ => none
    | .atpCacheDelete => none

/-- The link's draws that bring these bytes inside a block, each byte after a number of window's ends (R112, log entry
10). -/
def withGaps (bytes : List (Nat × Byte)) : List ReadDraw :=
  bytes.flatMap fun p => List.replicate p.1 .expired ++ [.byte p.2]

/-- These bytes after the NAD are not yet PCB, LEN, LEN data bytes and an epilogue of `epiLen` bytes (R112, R113). -/
def blockShort (epiLen : Nat) (got : List Byte) : Prop :=
  got.length < 2 ∨ ∃ pcb len tail, got = pcb :: len :: tail ∧ tail.length < len.toNat + epiLen

/-- The instruction is a wire block, not a host operation. -/
def isBlock : Instr → Bool
  | .init _ => false
  | .xferPart _ _ => false
  | .xferApdu _ => false
  | .i _ _ _ => true
  | .rOk _ => true
  | .rCkerr _ => true
  | .rOther _ => true
  | .sResynchReq => true
  | .sResynchRsp => true
  | .sIfsReq _ => true
  | .sIfsRsp _ => true
  | .sAbortReq => true
  | .sAbortRsp => true
  | .sWtxReq _ => true
  | .sWtxRsp _ => true
  | .sSwresetReq _ => true
  | .sSwresetRsp _ => true

/-- The block the engine builds from a PCB and data: NAD 0x00, LEN the data's length, a fresh checksum (R101, R126). -/
def built (k : ChecksumKind) (pcb : Byte) (data : List Byte) : Tpdu :=
  { nad := 0x00#8
    pcb := pcb
    len := BitVec.ofNat 8 data.length
    data := data
    checksum := checksum k (0x00#8 :: pcb :: BitVec.ofNat 8 data.length :: data) }

/-- `crc_acc` after a checksum computation over `bs` in the state's checksum kind (R91, R95). -/
def crcAfter (s : State) (bs : List Byte) : Word16 := if s.atp.checksum = .crc then crcAccOf bs else s.crcAcc

/-- `lrc_acc` after a checksum computation over `bs` in the state's checksum kind (R94, R95). -/
def lrcAfter (s : State) (bs : List Byte) : Byte := if s.atp.checksum = .lrc then lrc bs else s.lrcAcc

/-- `s` after the block `built k pcb data` has been formed and its exchange begun (R101, R165). -/
def sending (s : State) (pcb : Byte) (data : List Byte) : State :=
  { s with
    crcAcc := crcAfter s (0x00#8 :: pcb :: BitVec.ofNat 8 data.length :: data)
    lrcAcc := lrcAfter s (0x00#8 :: pcb :: BitVec.ofNat 8 data.length :: data)
    lastTx := built s.atp.checksum pcb data
    phase := .send }

/-- The block that the recovery value `r` sends (R167, R168, R169). OK sends none; the byte given for it is not used. -/
def recoveryPcb (r : Recovery) (nsSlave : Seq) : Byte :=
  match r with
  | .ok => 0x00#8
  | .resend1 => 0x82#8 ||| (nsSlave.setWidth 8 <<< 4)
  | .resend2 => 0x82#8 ||| (nsSlave.setWidth 8 <<< 4)
  | .resync1 => 0xC0#8
  | .resync2 => 0xC0#8
  | .resync3 => 0xC0#8
  | .warmReset => 0xCF#8

/-- The recovery value after a response failure, as the table of R166 lists it. -/
def escalated (r : Recovery) (firstTransmission : Bool) : Recovery :=
  match r, firstTransmission with
  | .ok, _ => .resend1
  | .resend1, _ => .resend2
  | .resend2, true => .warmReset
  | .resend2, false => .resync1
  | .resync1, _ => .resync2
  | .resync2, _ => .resync3
  | .resync3, _ => .warmReset
  | .warmReset, _ => .warmReset

/-- `s` after the entry into recovery on a response failure (R186): the pointer advanced, the cache file deleted first
in WARM_RESET, the value's block under way, and nothing else written. -/
def inRecovery (s : State) : State :=
  let r := escalated s.recovery s.firstTransmission
  sending
    { s with
      recovery := r
      events := if r = .warmReset then s.events ++ [.atpCacheDelete] else s.events }
    (recoveryPcb r s.nsSlave) []

/-- The PCBs still to be sent when every window from here on ends in a timeout, from the recovery value before the
first of these failures (R166, R173, property 4 of the source). -/
def escalation (firstTransmission : Bool) (nsSlave : Seq) (r : Recovery) : List Byte :=
  let other := 0x82#8 ||| (nsSlave.setWidth 8 <<< 4)
  let tail := if firstTransmission then [0xCF#8] else [0xC0#8, 0xC0#8, 0xC0#8, 0xCF#8]
  match r with
  | .ok => other :: other :: tail
  | .resend1 => other :: tail
  | .resend2 => tail
  | .resync1 => [0xC0#8, 0xC0#8, 0xCF#8]
  | .resync2 => [0xC0#8, 0xCF#8]
  | .resync3 => [0xCF#8]
  | .warmReset => [0xCF#8]

/-- Where `phase` may go in one step (R16), a step that waits for the host or the link included, and a failed INIT,
which leaves UNINIT (R121). -/
def phaseMoves : Phase → List Phase
  | .uninit => [.uninit, .idle]
  | .idle => [.idle, .send, .uninit]
  | .send => [.send, .wait, .idle]
  | .wait => [.wait, .read, .eval, .idle]
  | .read => [.read, .eval, .idle]
  | .eval => [.send, .idle]

/-- The host presents INIT on the command port. -/
def presentsInit (s : State) : Prop := ∃ c load, s.port = some c ∧ decodeCmd c = .ok (.init load)

/-- The handle loop dispatches a consistent block in this state (R172, steps 2 to 4). -/
def dispatches (s : State) : Prop := s.port = none ∧ s.phase = .eval ∧ s.rxLen ≠ 0#9 ∧ consistent s = 0

end Sys2Proof.Safety
end

