-- ==== Sys2Proof/Certificates/Slice0/Obligations.lean ====
section
/-! DEFINITION. The statements for the provers. -/

open Sys2Proof Sys2Proof.Machine Sys2Proof.Safety

/-! ### Encoding -/

/-- Decode and encode agree: every well-formed instruction comes back from its words, under both epilogue kinds
(R60, R64 to R68, R77, R81). -/
def Obligations.DecodeOfEncodeIsIdentity : Prop :=
  ∀ (k : ChecksumKind) (i : Instr), i.wf = true → decode k (encode k i) = .ok i

/-- The receiver finds a block's end from LEN and the epilogue kind, whatever bytes follow (R77). -/
def Obligations.StreamDecodeStopsAtBlockEnd : Prop :=
  ∀ (k : ChecksumKind) (i : Instr) (bs rest : List Byte),
    i.wf = true → encode k i = .block bs → decodeFrame k (bs ++ rest) = .ok (i, rest)

/-- The other direction: a PCB, LEN and data that decode are the words of the instruction they decode to, so no other
PCB and no reserved bit gives an instruction (R67, R74, R75). -/
def Obligations.EncodeOfDecodedFieldsIsIdentity : Prop :=
  ∀ (k : ChecksumKind) (pcb len : Byte) (data : List Byte) (i : Instr),
    decodeFields pcb len data = .ok i →
      encode k i = .block (cardFrame k pcb data) ∧ i.wf = true ∧ len ≠ 255#8 ∧ data.length = len.toNat

/-- Words of the spec's own examples: a block of each of the three formats under CRC, one under LRC, an XFER_PART on the
port, and the reserved operation code (R60, R62, R81). The CRC bytes rest on the default CRC_PARAMS, which the spec
takes from general knowledge (log entry 1). -/
def Obligations.SpecWordsDecode : Prop :=
  decode .crc (.block [0x12#8, 0x20#8, 0x02#8, 0xAA#8, 0xBB#8, 0x83#8, 0x0E#8]) = .ok (.i 0#1 true [0xAA#8, 0xBB#8]) ∧
  decode .crc (.block [0x12#8, 0x90#8, 0x00#8, 0xBC#8, 0xEF#8]) = .ok (.rOk 1#1) ∧
  decode .crc (.block [0x12#8, 0xC3#8, 0x01#8, 0x05#8, 0x82#8, 0xAD#8]) = .ok (.sWtxReq 0x05#8) ∧
  decode .lrc (.block [0x12#8, 0xC3#8, 0x01#8, 0x05#8, 0xD5#8]) = .ok (.sWtxReq 0x05#8) ∧
  decode .crc (.port { cmdOp := 0b01#2, cmd := [0x00#8], isLast := true, atpLoad := none }) =
    .ok (.xferPart [0x00#8] true) ∧
  decode .crc (.port { cmdOp := 0b11#2, cmd := [], isLast := false, atpLoad := none }) = .error .reservedCmdOp

/-- Classification looks at bits 7 and 6 only and is total: 128 values are I, 64 R, 64 S (R63). -/
def Obligations.ClassifyFollowsTopTwoBits : Prop :=
  (∀ pcb : Byte, pcb.getLsbD 7 = false → blockKind pcb = .I) ∧
  (∀ pcb : Byte, pcb.getLsbD 7 = true → pcb.getLsbD 6 = false → blockKind pcb = .R) ∧
  (∀ pcb : Byte, pcb.getLsbD 7 = true → pcb.getLsbD 6 = true → blockKind pcb = .S) ∧
  ((List.range 256).countP fun n => blockKind (BitVec.ofNat 8 n) = .I) = 128 ∧
  ((List.range 256).countP fun n => blockKind (BitVec.ofNat 8 n) = .R) = 64 ∧
  ((List.range 256).countP fun n => blockKind (BitVec.ofNat 8 n) = .S) = 64

/-! ### Checksums and the framer -/

/-- The CRC's check value and the worked values of R91; they rest on the default CRC_PARAMS, which the spec takes from
general knowledge (log entry 1). -/
def Obligations.CrcWorkedValues : Prop :=
  crc16 [0x31#8, 0x32#8, 0x33#8, 0x34#8, 0x35#8, 0x36#8, 0x37#8, 0x38#8, 0x39#8] = 0x906E#16 ∧
  crc16 [] = 0x0000#16 ∧ crc16 [0x00#8] = 0xF078#16 ∧ crc16 [0xFF#8] = 0xFF00#16 ∧ crc16 [0x01#8] = 0xE1F1#16 ∧
  crc16 [0x00#8, 0x82#8, 0x00#8] = 0x79B0#16 ∧ crc16 [0x82#8, 0x00#8, 0x00#8] = 0x7F98#16 ∧
  lrc [0x00#8, 0x82#8, 0x00#8] = 0x82#8 ∧ lrc [] = 0x00#8

/-- A message followed by its own CRC, low byte first, leaves the constant residue (R92 b); default CRC_PARAMS, log
entry 1. -/
def Obligations.CrcResidueIsConstant : Prop :=
  ∀ m : List Byte,
    crcAccOf (m ++ epilogue .crc (crc16 m)) = 0xF0B8#16 ∧ crc16 (m ++ epilogue .crc (crc16 m)) = 0x0F47#16

/-- Messages that differ in one byte have different CRCs; a single changed bit is such a change (R92 c); default
CRC_PARAMS, log entry 1. -/
def Obligations.CrcDetectsOneChangedByte : Prop :=
  ∀ (pre post : List Byte) (b b' : Byte), b ≠ b' → crc16 (pre ++ b :: post) ≠ crc16 (pre ++ b' :: post)

/-- The LRC is the XOR of the bytes: a frame with its LRC sums to 0, a single byte gives itself, and the order does not
matter (R94). -/
def Obligations.LrcIsOrderFreeXor : Prop :=
  (∀ bs : List Byte, lrc (bs ++ [lrc bs]) = 0x00#8) ∧ (∀ b : Byte, lrc [b] = b) ∧
  (∀ bs bs' : List Byte, bs.Perm bs' → lrc bs = lrc bs')

/-- The CRC goes out low byte first at the end of the frame, and PARSE puts it together again (R44). -/
def Obligations.CrcTravelsLowByteFirst : Prop :=
  ∀ (t : Tpdu) (buf m : Memory) (n : Nat),
    buf.wf = true → t.wf = true → toBytes .crc t buf = .ok (m, n) →
      let c := crc16 (t.nad :: t.pcb :: t.len :: t.data)
      m.read (3 + t.len.toNat) = c.extractLsb' 0 8 ∧ m.read (3 + t.len.toNat + 1) = c.extractLsb' 8 8 ∧
      (parse .crc m).checksum =
        (m.read (3 + t.len.toNat)).setWidth 16 ||| ((m.read (3 + t.len.toNat + 1)).setWidth 16 <<< 8)

/-- The frame layout in the buffer: NAD, PCB, LEN, data, epilogue at rising offsets from 0, and every other byte of the
buffer as it was (R41, R43, R100). -/
def Obligations.ToBytesLaysOutTheFrame : Prop :=
  ∀ (k : ChecksumKind) (t : Tpdu) (buf : Memory),
    buf.wf = true → t.wf = true →
      ∃ m n, toBytes k t buf = .ok (m, n) ∧ m.wf = true ∧ n = 3 + t.len.toNat + epilogueLen k ∧
        m.bytes 0 n = image k t.nad t.pcb t.data ∧ (∀ a, n ≤ a → m.read a = buf.read a)

/-- FORM_TPDU (R101): refused for LEN 255 or a data list of another length, else the four fields and the checksum of
NAD, PCB, LEN and data, for every PCB. -/
def Obligations.FormTpduBuildsOrRefuses : Prop :=
  ∀ (nad pcb len : Byte) (data : List Byte) (s : State),
    (254 < len.toNat ∨ data.length ≠ len.toNat → formTpdu nad pcb len data s = .error .formTpdu) ∧
    (len.toNat ≤ 254 → data.length = len.toNat → ∃ s', formTpdu nad pcb len data s =
      .ok ({ nad := nad, pcb := pcb, len := len, data := data,
             checksum := checksum s.atp.checksum (nad :: pcb :: len :: data) }, s') ∧
      s' = { s with crcAcc := s'.crcAcc, lrcAcc := s'.lrcAcc })

/-- Frame round trip (R105): what FORM_TPDU builds, serialized and copied into the receive buffer, is parsed back field
for field, and its checksum is right, for all 256 PCB values. -/
def Obligations.FrameRoundTrip : Prop :=
  ∀ (k : ChecksumKind) (nad pcb len : Byte) (data : List Byte) (s s' : State) (t : Tpdu) (tx rx : Memory),
    s.atp.checksum = k → tx.wf = true → rx.wf = true → formTpdu nad pcb len data s = .ok (t, s') →
      t.nad = nad ∧ t.pcb = pcb ∧ t.len = len ∧ t.data = data ∧
      ∃ m n, toBytes k t tx = .ok (m, n) ∧
        parse k (rx.writeList 0 (m.bytes 0 n)) = t ∧ checksumOk k (rx.writeList 0 (m.bytes 0 n)) = true

/-! ### Received blocks -/

/-- `I` received (R146): the whole next state. -/
def Obligations.IBlockReceptionAdvancesSequence : Prop :=
  ∀ (ns : Seq) (more : Bool) (data : List Byte) (s : State),
    exec (.i ns more data) s = .next { s with
      nsMaster := if blockKind s.orig.pcb = .I then s.nsMaster ^^^ 1#1 else s.nsMaster
      nsSlave := s.nsSlave ^^^ 1#1
      resp := data
      phase := .idle
      outcome := if s.apdu.isNone then some (if more then .respMore data else .respFinal data) else s.outcome
      apdu := s.apdu.map fun x => { x with part := some (if more then .respMore data else .respFinal data) } }

/-- `R_OK`, `R_CKERR`, `R_OTHER` received, processed alike (R147): acknowledgement, retransmission of a fragment not
taken, "please resend", and the resend-request. The whole next state of each case but for the two checksum
accumulators, which U10 leaves open. -/
def Obligations.RBlockReceptionAcknowledgesOrResends : Prop :=
  ∀ (nr : Seq) (i : Instr) (s : State), i = .rOk nr ∨ i = .rCkerr nr ∨ i = .rOther nr →
    let chained := blockKind s.orig.pcb = .I ∧ s.orig.pcb.getLsbD 5 = true
    (chained → nr = s.nsMaster ^^^ 1#1 → exec i s = .next { s with
      nsMaster := s.nsMaster ^^^ 1#1
      resp := []
      phase := .idle
      outcome := if s.apdu.isNone then some .ack else s.outcome
      apdu := s.apdu.map fun x => { x with part := some .ack } }) ∧
    (chained → nr = s.nsMaster → exec i s = .next { s with lastTx := s.orig, phase := .send }) ∧
    (¬ chained → nr = s.nsMaster → exec i s = .next { s with lastTx := s.orig, phase := .send }) ∧
    (¬ chained → nr ≠ s.nsMaster → ∃ t, exec i s = .next t ∧
      t = { inRecovery s with crcAcc := t.crcAcc, lrcAcc := t.lrcAcc })

/-- `S_WTX_REQ` received (R150): the response echoes the byte and the next window is `mult` times the block waiting
time. The accumulators, which U10 leaves open, are not
stated. -/
def Obligations.WtxRequestExtendsNextWindow : Prop :=
  ∀ (mult : Byte) (s : State),
    ∃ t, exec (.sWtxReq mult) s = .next t ∧
      t = { sending s 0xE3#8 [mult] with nbwt := mult, crcAcc := t.crcAcc, lrcAcc := t.lrcAcc }

/-- `S_IFS_REQ` received (R151): the value is stored as received and echoed. The accumulators,
which U10 leaves open, are not stated. -/
def Obligations.IfsRequestStoresIfsc : Prop :=
  ∀ (ifsc : Byte) (s : State),
    ∃ t, exec (.sIfsReq ifsc) s = .next t ∧
      t = { sending s 0xE1#8 [ifsc] with atp := { s.atp with ifsc := ifsc }, crcAcc := t.crcAcc, lrcAcc := t.lrcAcc }

/-- `S_RESYNCH_REQ` received (R152): both sequence numbers to 0, `orig` as it is, the response sent. The whole next
state but for the two checksum accumulators, which U10 leaves open. -/
def Obligations.ResynchRequestZeroesSequence : Prop :=
  ∀ s : State, ∃ t, exec .sResynchReq s = .next t ∧
    t = { sending s 0xE0#8 [] with nsMaster := 0#1, nsSlave := 0#1, crcAcc := t.crcAcc, lrcAcc := t.lrcAcc }

/-- `S_RESYNCH_RSP` received (R153): both sequence numbers to 0, `orig` renumbered with a fresh checksum where its
number is 1, and sent again. The accumulators, which U10 leaves open, are not stated. -/
def Obligations.ResynchResponseRenumbersAndResends : Prop :=
  ∀ s : State, s.orig.wf = true →
    let z := { s with nsMaster := 0#1, nsSlave := 0#1 }
    (blockKind s.orig.pcb = .I → s.orig.pcb.getLsbD 6 = true → ∃ t, exec .sResynchRsp s = .next t ∧
      t.orig = { s.orig with
        pcb := s.orig.pcb &&& 0xBF#8
        checksum := checksum s.atp.checksum (s.orig.nad :: (s.orig.pcb &&& 0xBF#8) :: s.orig.len :: s.orig.data) } ∧
      t = { z with orig := t.orig, lastTx := t.orig, phase := .send, crcAcc := t.crcAcc, lrcAcc := t.lrcAcc }) ∧
    (blockKind s.orig.pcb = .R → s.orig.pcb.getLsbD 4 = true → ∃ t, exec .sResynchRsp s = .next t ∧
      t.orig =
        { nad := s.orig.nad
          pcb := s.orig.pcb &&& 0xEF#8
          len := 0x00#8
          data := []
          checksum := checksum s.atp.checksum [s.orig.nad, s.orig.pcb &&& 0xEF#8, 0x00#8] } ∧
      t = { z with orig := t.orig, lastTx := t.orig, phase := .send, crcAcc := t.crcAcc, lrcAcc := t.lrcAcc }) ∧
    (¬ (blockKind s.orig.pcb = .I ∧ s.orig.pcb.getLsbD 6 = true) →
      ¬ (blockKind s.orig.pcb = .R ∧ s.orig.pcb.getLsbD 4 = true) →
      exec .sResynchRsp s = .next { z with lastTx := s.orig, phase := .send })

/-- `S_SWRESET_RSP` received (R154): a record the parser gives replaces the store, a failed parse leaves it, the
sequence numbers are 0, and the operation ends with ERR(Reset). `resp` is whatever value the engine is left with
(R187). -/
def Obligations.SwresetResponseReloadsAtpAndEnds : Prop :=
  ∀ (data : List Byte) (s : State), ∃ t, exec (.sSwresetRsp data) s = .next t ∧
    t = { s with
      atp := (Config.atpParse data).getD s.atp
      nsMaster := 0#1
      nsSlave := 0#1
      resp := t.resp
      free := t.free
      phase := .idle
      outcome := if s.apdu.isNone then some (.err .reset) else s.outcome
      apdu := s.apdu.map fun x => { x with part := some (.err .reset) } }

/-- `S_ABORT_REQ`, and the four S-blocks without a handler, received (R155, R156): ERR(Reset), nothing sent, no other
state changed but `resp`, which is unspecified after an ERR (R187). -/
def Obligations.UnhandledSBlocksEndWithReset : Prop :=
  ∀ (i : Instr) (s : State) (b : Byte) (data : List Byte),
    i = .sAbortReq ∨ i = .sAbortRsp ∨ i = .sWtxRsp b ∨ i = .sIfsRsp b ∨ i = .sSwresetReq data →
      ∃ t, exec i s = .next t ∧
        t = { s with
          resp := t.resp
          free := t.free
          phase := .idle
          outcome := if s.apdu.isNone then some (.err .reset) else s.outcome
          apdu := s.apdu.map fun x => { x with part := some (.err .reset) } }

/-- The frame of every received block: each byte of both buffers, the received block itself, the link, the command
port, `ifsd`, `initialized`, `first_transmission` and, where a consistent block has set it, `recovery` are as they
were; only an R-block that check 4 would have stopped, one with `orig` not chained and another N(R) than `ns_master`,
advances `recovery` or records an event (R146 to R156, R171). -/
def Obligations.ReceivedBlocksFrame : Prop :=
  ∀ (i : Instr) (s t : State), isBlock i = true → exec i s = .next t →
    (∀ a, t.txBuf.read a = s.txBuf.read a) ∧ (∀ a, t.rxBuf.read a = s.rxBuf.read a) ∧
    t.lastRx = s.lastRx ∧ t.rxLen = s.rxLen ∧ t.linkRd = s.linkRd ∧ t.linkWr = s.linkWr ∧ t.port = s.port ∧
    t.ifsd = s.ifsd ∧ t.initialized = s.initialized ∧ t.firstTransmission = s.firstTransmission ∧
    framesSent t.events = framesSent s.events ∧
    (t.recovery = s.recovery ∧ t.events = s.events ∨
      ∃ nr : Seq, (i = .rOk nr ∨ i = .rCkerr nr ∨ i = .rOther nr) ∧
        ¬ (blockKind s.orig.pcb = .I ∧ s.orig.pcb.getLsbD 5 = true) ∧ nr ≠ s.nsMaster ∧
        t.recovery = escalated s.recovery s.firstTransmission ∧ t.phase = .send)

/-! ### Host operations -/

/-- INIT with a record (R31, R121): the values a successful INIT leaves, and everything else kept. Not while an
operation runs. -/
def Obligations.InitLoadsAndResets : Prop :=
  ∀ (a : Atp) (s : State), s.busy = false →
    exec (.init (some a)) s = .next { s with
      atp := a
      nsMaster := 0#1
      nsSlave := 0#1
      firstTransmission := true
      ifsd := 254#8
      recovery := .ok
      nbwt := 1#8
      rxLen := 0#9
      resp := []
      initialized := true
      phase := .idle
      outcome := some .ok }

/-- INIT with a failed load (R121, R187): ERR(Io), uninitialised; the elements R187 calls unspecified have any value,
the rest is kept. -/
def Obligations.FailedInitLeavesUninitialised : Prop :=
  ∀ s : State, s.busy = false → ∃ t, exec (.init none) s = .next t ∧
    t = { s with
      initialized := false
      phase := .uninit
      outcome := some (.err .io)
      recovery := t.recovery
      firstTransmission := t.firstTransmission
      nsMaster := t.nsMaster
      nsSlave := t.nsSlave
      atp := t.atp
      resp := t.resp
      free := t.free }

/-- LRC declared while LRC is not supported (R96): INIT fails as on a failed load, and transfers are refused. -/
def Obligations.LrcNotSupportedFailsCleanly : Prop :=
  (∀ (a : Atp) (s : State), a.checksum = .lrc → s.busy = false →
    ∃ t, initOp false (some a) s = .next t ∧ t.outcome = some (.err .io) ∧ t.phase = .uninit ∧ t.initialized = false) ∧
  (∀ (a : Atp) (s : State), a.checksum = .crc → s.busy = false →
    ∃ t, initOp false (some a) s = .next t ∧ t.outcome = some .ok ∧ t.atp = a) ∧
  (∀ (cmd : List Byte) (isLast : Bool) (s : State), s.busy = false → s.phase = .idle → s.atp.checksum = .lrc →
    xferPartOp false cmd isLast s = .refused .lrcUnsupported ∧ xferApduOp false cmd s = .refused .lrcUnsupported)

/-- XFER_PART with command bytes (R122, R124): the I-block is `orig`, and its exchange begins. The accumulators,
which U10 leaves open, are not stated. -/
def Obligations.XferPartSendsIBlock : Prop :=
  ∀ (cmd : List Byte) (isLast : Bool) (s : State),
    s.phase = .idle → s.apdu = none → cmd ≠ [] → cmd.length ≤ min s.atp.ifsc.toNat 254 →
      let pcb := (s.nsMaster.setWidth 8 <<< 6) ||| (if isLast then 0x00#8 else 0x20#8)
      ∃ t, exec (.xferPart cmd isLast) s = .next t ∧
        t = { sending s pcb cmd with
          orig := built s.atp.checksum pcb cmd
          outcome := none
          crcAcc := t.crcAcc
          lrcAcc := t.lrcAcc }

/-- XFER_PART without a byte (R122, R125): the solicitation R(N(R) = ns_slave) is `orig`, and its exchange begins. The
accumulators, which U10 leaves open, are not stated. -/
def Obligations.EmptyXferPartSolicits : Prop :=
  ∀ (isLast : Bool) (s : State), s.phase = .idle → s.apdu = none →
    let pcb := 0x80#8 ||| (s.nsSlave.setWidth 8 <<< 4)
    ∃ t, exec (.xferPart [] isLast) s = .next t ∧
      t = { sending s pcb [] with
        orig := built s.atp.checksum pcb []
        outcome := none
        crcAcc := t.crcAcc
        lrcAcc := t.lrcAcc }

/-- XFER_APDU's first fragment (R127): the first `min(ifsc, 254)` bytes chained, or the whole command when it fits. The
wrapper's locals are the field `apdu`, log entry 15; the accumulators, which U10 leaves open, are not stated. -/
def Obligations.XferApduSendsFirstFragment : Prop :=
  ∀ (cmd : List Byte) (s : State), s.phase = .idle → s.apdu = none → cmd ≠ [] → s.atp.ifsc ≠ 0#8 →
    let chunk := min s.atp.ifsc.toNat 254
    let chained := chunk < cmd.length
    let pcb := (s.nsMaster.setWidth 8 <<< 6) ||| (if chained then 0x20#8 else 0x00#8)
    let frag := if chained then cmd.take chunk else cmd
    ∃ t, exec (.xferApdu cmd) s = .next t ∧ t = { sending s pcb frag with
      orig := built s.atp.checksum pcb frag
      outcome := none
      crcAcc := t.crcAcc
      lrcAcc := t.lrcAcc
      apdu := some
        { cmd := cmd
          off := 0
          chunk := chunk
          out := []
          side := if chained then .command else .response
          part := none } }

/-- The wrapper between two parts (R127): after an ACK the next fragment, cut by the IFSC of that moment; after
RESP_MORE a solicitation with the data kept; after RESP_FINAL the whole response to the host; an answer of the wrong
kind ends with ERR(Consistency), an error with that error. The wrapper's locals are the field `apdu`, log entry 15; the
refusal of a zero fragment size stops the model there, log entry 17. -/
def Obligations.ApduWrapperRunsItsParts : Prop :=
  ∀ (x : ApduRun) (s : State), s.port = none → s.phase = .idle → s.apdu = some x →
    (∀ k, x.part = some (.err k) → ∃ t, step s = .next t ∧ t.outcome = some (.err k) ∧
      t = { s with apdu := none, outcome := t.outcome, resp := t.resp, free := t.free }) ∧
    (x.side = .command → x.part = some .ack → s.atp.ifsc ≠ 0#8 →
      let chunk := min s.atp.ifsc.toNat 254
      let left := x.cmd.drop (x.off + x.chunk)
      left ≠ [] →
      let chained := chunk < left.length
      let pcb := (s.nsMaster.setWidth 8 <<< 6) ||| (if chained then 0x20#8 else 0x00#8)
      let frag := if chained then left.take chunk else left
      ∃ t, step s = .next t ∧ t = { sending s pcb frag with
        orig := built s.atp.checksum pcb frag
        crcAcc := t.crcAcc
        lrcAcc := t.lrcAcc
        apdu := some { x with
          off := x.off + x.chunk
          chunk := chunk
          side := if chained then .command else .response
          part := none } }) ∧
    (x.side = .command → x.part = some .ack → s.atp.ifsc = 0#8 → step s = .refused .zeroChunk) ∧
    (x.side = .command → ∀ d, x.part = some (.respFinal d) ∨ x.part = some (.respMore d) →
      ∃ t, step s = .next t ∧ t.outcome = some (.err .consistency) ∧
        t = { s with apdu := none, outcome := t.outcome, resp := t.resp, free := t.free }) ∧
    (x.side = .response → x.part = some .ack →
      ∃ t, step s = .next t ∧ t.outcome = some (.err .consistency) ∧
        t = { s with apdu := none, outcome := t.outcome, resp := t.resp, free := t.free }) ∧
    (x.side = .response → ∀ d, x.part = some (.respMore d) →
      let pcb := 0x80#8 ||| (s.nsSlave.setWidth 8 <<< 4)
      ∃ t, step s = .next t ∧ t = { sending s pcb [] with
        orig := built s.atp.checksum pcb []
        crcAcc := t.crcAcc
        lrcAcc := t.lrcAcc
        apdu := some { x with out := x.out ++ d, part := none } }) ∧
    (x.side = .response → ∀ d, x.part = some (.respFinal d) →
      step s = .next { s with
        apdu := none
        resp := x.out ++ d
        outcome := some (.respFinal (x.out ++ d)) })

/-- The refusals of the command port (R120, R122, R127): before INIT, while an operation runs (an XFER_APDU between its
parts included), the reserved code, a fragment over the limit, an empty command, a fragment size of 0. -/
def Obligations.HostOperationRefusals : Prop :=
  (∀ (cmd : List Byte) (isLast : Bool) (s : State), s.phase = .uninit → s.apdu = none →
    exec (.xferPart cmd isLast) s = .refused .beforeInit ∧ exec (.xferApdu cmd) s = .refused .beforeInit) ∧
  (∀ (load : Option Atp) (cmd : List Byte) (isLast : Bool) (s : State),
    s.phase = .send ∨ s.phase = .wait ∨ s.phase = .read ∨ s.phase = .eval ∨ s.apdu ≠ none →
      exec (.init load) s = .refused .busy ∧ exec (.xferPart cmd isLast) s = .refused .busy ∧
      exec (.xferApdu cmd) s = .refused .busy) ∧
  (∀ (c : CmdPort) (s : State), s.port = some c → c.cmdOp = 0b11#2 → step s = .refused .reservedCmdOp) ∧
  (∀ (cmd : List Byte) (isLast : Bool) (s : State), s.phase = .idle → s.apdu = none →
    min s.atp.ifsc.toNat 254 < cmd.length → exec (.xferPart cmd isLast) s = .refused .cmdTooLong) ∧
  (∀ s : State, s.phase = .idle → s.apdu = none → exec (.xferApdu []) s = .refused .emptyCmd) ∧
  (∀ (cmd : List Byte) (s : State), s.phase = .idle → s.apdu = none → cmd ≠ [] → s.atp.ifsc = 0#8 →
    exec (.xferApdu cmd) s = .refused .zeroChunk)

/-- IFS honoured (R54 a, R158 e): no I-block that a transfer builds, at its start or between two parts, carries more
than `min(atp.ifsc, 254)` bytes of the IFSC of that moment. -/
def Obligations.FragmentsRespectIfsc : Prop :=
  (∀ (cmd : List Byte) (isLast : Bool) (s t : State), exec (.xferPart cmd isLast) s = .next t →
    t.lastTx.len.toNat ≤ min s.atp.ifsc.toNat 254 ∧ t.lastTx.data = cmd) ∧
  (∀ (cmd : List Byte) (s t : State), exec (.xferApdu cmd) s = .next t →
    t.lastTx.len.toNat ≤ min s.atp.ifsc.toNat 254) ∧
  (∀ s t : State, s.port = none → s.phase = .idle → step s = .next t → t.phase = .send →
    t.lastTx.len.toNat ≤ min s.atp.ifsc.toNat 254)

/-! ### The exchange -/

/-- SEND (R110, R165, R190): the link takes the whole frame in one write, the timer is armed with the multiplier, WAIT
follows; a link error ends the operation with ERR(Io); with no answer of the link the engine blocks. TXBUF holds the
frame at offset 0 and is unchanged beyond it. The link's answers are draws in lists, log entry 9. -/
def Obligations.SendHandsOverOneFrame : Prop :=
  ∀ s : State, s.port = none → s.phase = .send → s.txBuf.wf = true → s.lastTx.wf = true →
    (s.linkWr = [] → step s = .next s) ∧
    (∀ w rest, s.linkWr = w :: rest → ∃ t, step s = .next t ∧
      (∀ a, 3 + s.lastTx.len.toNat + epilogueLen s.atp.checksum ≤ a → t.txBuf.read a = s.txBuf.read a) ∧
      t.txBuf.bytes 0 (3 + s.lastTx.len.toNat + epilogueLen s.atp.checksum) =
        image s.atp.checksum s.lastTx.nad s.lastTx.pcb s.lastTx.data ∧
      (w = .ok → t = { s with
        txBuf := t.txBuf
        crcAcc := t.crcAcc
        lrcAcc := t.lrcAcc
        linkWr := rest
        events := s.events ++
          [.linkWrite (image s.atp.checksum s.lastTx.nad s.lastTx.pcb s.lastTx.data), .timerArm s.nbwt s.atp.bwt]
        phase := .wait }) ∧
      (w = .ioErr → t = { s with
        txBuf := t.txBuf
        crcAcc := t.crcAcc
        lrcAcc := t.lrcAcc
        linkWr := rest
        resp := t.resp
        free := t.free
        phase := .idle
        outcome := if s.apdu.isNone then some (.err .io) else s.outcome
        apdu := s.apdu.map fun x => { x with part := some (.err .io) } }))

/-- WAIT (R111, R165): bytes other than 0x12 are discarded; 0x12 is kept as the block's first byte and READ follows;
the window's end gives `rx_len = 0` and EVAL; a link error ends the operation; the multiplier is 1 again. When only
other bytes have come, they are consumed (R49) and the engine goes on waiting. The draws: log entry 9. -/
def Obligations.WaitKeysOnTheNad : Prop :=
  (∀ (noise : List Byte) (d : ReadDraw) (rest : List ReadDraw) (s : State),
      s.port = none → s.phase = .wait → s.rxBuf.wf = true → (∀ b ∈ noise, b ≠ 0x12#8) →
      s.linkRd = noise.map .byte ++ d :: rest →
        (d = .byte 0x12#8 → ∃ t, step s = .next t ∧
          (∀ a, t.rxBuf.read a = if a = 0 then 0x12#8 else s.rxBuf.read a) ∧
          t = { s with
            linkRd := rest
            nbwt := 1#8
            rxBuf := t.rxBuf
            lastRx := { s.lastRx with nad := 0x12#8 }
            phase := .read }) ∧
        (d = .expired →
          step s = .next { s with linkRd := rest, nbwt := 1#8, rxLen := 0#9, phase := .eval }) ∧
        (d = .ioErr → ∃ t, step s = .next t ∧
          t = { s with
            linkRd := rest
            nbwt := 1#8
            resp := t.resp
            free := t.free
            phase := .idle
            outcome := if s.apdu.isNone then some (.err .io) else s.outcome
            apdu := s.apdu.map fun x => { x with part := some (.err .io) } })) ∧
  (∀ (noise : List Byte) (s : State), s.port = none → s.phase = .wait → (∀ b ∈ noise, b ≠ 0x12#8) →
    s.linkRd = noise.map .byte → step s = .next { s with linkRd := [] })

/-- READ (R112): PCB, LEN, LEN data bytes and the epilogue go to RXBUF in order and into `last_rx`, `rx_len` is their
number, EVAL follows; no byte is special and every other byte of RXBUF is as it was. No deadline applies inside the
block (R112, R185): a window's end before any of its bytes means nothing, log entry 10. Until all bytes are there the
engine blocks and nothing changes. The draws: log entry 9. -/
def Obligations.ReadTakesTheRestOfTheBlock : Prop :=
  (∀ (pcb len : Byte) (data epi : List Byte) (gapped : List (Nat × Byte)) (rest : List ReadDraw) (s : State),
    s.port = none → s.phase = .read → s.rxBuf.wf = true → len ≠ 255#8 → data.length = len.toNat →
    epi.length = epilogueLen s.atp.checksum →
    gapped.map Prod.snd = pcb :: len :: (data ++ epi) → s.linkRd = withGaps gapped ++ rest →
      ∃ t, step s = .next t ∧
        (∀ a, t.rxBuf.read a =
          if 1 ≤ a ∧ a < 3 + len.toNat + epi.length then (pcb :: len :: (data ++ epi)).getD (a - 1) 0#8
          else s.rxBuf.read a) ∧
        t = { s with
          linkRd := rest
          rxBuf := t.rxBuf
          lastRx := { nad := s.rxBuf.read 0, pcb := pcb, len := len, data := data, checksum := epilogueValue epi }
          rxLen := BitVec.ofNat 9 (3 + len.toNat + epi.length)
          phase := .eval }) ∧
  (∀ (gapped : List (Nat × Byte)) (n : Nat) (s : State), s.port = none → s.phase = .read →
    blockShort (epilogueLen s.atp.checksum) (gapped.map Prod.snd) →
    s.linkRd = withGaps gapped ++ List.replicate n .expired → step s = .next s)

/-- A received LEN of 255 (R113): 255 + E bytes are consumed, at most 254 data bytes are stored, `rx_len` is 258 + E,
and the block fails the consistency checks whatever its unspecified data and checksum are (R139). A window's
end inside the block means nothing, log entry 10; that the epilogue is not stored is log entry 13. -/
def Obligations.OverlongBlockIsConsumedAndFails : Prop :=
  ∀ (pcb : Byte) (data epi : List Byte) (gapped : List (Nat × Byte)) (rest : List ReadDraw) (s : State),
    s.port = none → s.phase = .read → s.rxBuf.wf = true → data.length = 255 →
    epi.length = epilogueLen s.atp.checksum →
    gapped.map Prod.snd = pcb :: 255#8 :: (data ++ epi) → s.linkRd = withGaps gapped ++ rest →
      ∃ t, step s = .next t ∧ consistent t ≠ 0 ∧
        t.lastRx.pcb = pcb ∧ t.lastRx.len = 255#8 ∧
        (∀ a, t.rxBuf.read a =
          if 1 ≤ a ∧ a < 257 then (pcb :: 255#8 :: data).getD (a - 1) 0#8 else s.rxBuf.read a) ∧
        t = { s with
          linkRd := rest
          rxBuf := t.rxBuf
          lastRx := t.lastRx
          rxLen := BitVec.ofNat 9 (258 + epilogueLen s.atp.checksum)
          free := t.free
          phase := .eval }

/-- A link error inside a block (R112, R165, R187): the operation ends with ERR(Io); only RXBUF, beyond its first byte,
and what an ERR leaves open are written, `last_rx` and `rx_len` are as before the failed read. Window's ends that came
before the error inside the block mean nothing (R185, log entry 10). -/
def Obligations.LinkErrorInsideBlockEndsOperation : Prop :=
  ∀ (gapped : List (Nat × Byte)) (n : Nat) (rest : List ReadDraw) (s : State),
    s.port = none → s.phase = .read → s.rxBuf.wf = true →
    blockShort (epilogueLen s.atp.checksum) (gapped.map Prod.snd) →
    s.linkRd = withGaps gapped ++ List.replicate n .expired ++ .ioErr :: rest →
      ∃ t, step s = .next t ∧ t.rxBuf.read 0 = s.rxBuf.read 0 ∧
        t = { s with
          linkRd := rest
          rxBuf := t.rxBuf
          resp := t.resp
          free := t.free
          phase := .idle
          outcome := if s.apdu.isNone then some (.err .io) else s.outcome
          apdu := s.apdu.map fun x => { x with part := some (.err .io) } }

/-! ### Checks, the handle loop and recovery -/

/-- The five checks (R136 to R141) on a block with a legal LEN: fully consistent says exactly this. -/
def Obligations.ConsistentMeansAllFiveChecks : Prop :=
  ∀ s : State, s.rxBuf.read 2 ≠ 255#8 →
    let p := s.lastRx.pcb
    let len := s.lastRx.len
    (consistent s = 0 ↔
      (s.rxBuf.bytes (3 + (s.rxBuf.read 2).toNat) (epilogueLen s.atp.checksum) =
        epilogue s.atp.checksum (checksum s.atp.checksum (s.rxBuf.bytes 0 (3 + (s.rxBuf.read 2).toNat)))) ∧
      ((blockKind p = .I → p &&& 0x1F#8 = 0#8) ∧ (blockKind p = .R → p &&& 0x6C#8 = 0#8) ∧
        (blockKind p = .S → p &&& 0x10#8 = 0#8)) ∧
      (len ≠ 255#8 ∧ (blockKind p = .I → len.toNat ≤ s.ifsd.toNat) ∧ (blockKind p = .R → len = 0#8) ∧
        (blockKind p = .S →
          (p &&& 0x0F#8 = 0x03#8 ∨ p &&& 0x0F#8 = 0x01#8) ∧ len = 1#8 ∨
          (p &&& 0x0F#8 = 0x02#8 ∨ p &&& 0x0F#8 = 0x00#8) ∧ len = 0#8 ∨
          p &&& 0x0F#8 = 0x0F#8)) ∧
      ((blockKind p = .I → p.extractLsb' 6 1 = s.nsSlave) ∧
        (blockKind p = .R → ¬ (blockKind s.orig.pcb = .I ∧ s.orig.pcb.getLsbD 5 = true) →
          p.extractLsb' 4 1 = s.nsMaster)) ∧
      (blockKind s.lastTx.pcb = .S → s.lastTx.pcb.getLsbD 5 = false → p = s.lastTx.pcb ||| 0x20#8))

/-- Every block that passes the checks is an instruction of the table, or an R-block with the undefined error kind, in
every state of the invariant (R67, R75, U2; a SWRESET request of any LEN up to 254 is one, log entry 19). -/
def Obligations.ConsistentBlockIsAnInstruction : Prop :=
  ∀ s : State, Inv s → s.phase = .eval → s.rxLen ≠ 0#9 → consistent s = 0 →
    (∃ i, isBlock i = true ∧ i.wf = true ∧
      decode s.atp.checksum (.block (s.rxBuf.bytes 0 s.rxLen.toNat)) = .ok i ∧
      decodeFields s.lastRx.pcb s.lastRx.len s.lastRx.data = .ok i) ∨
    ((s.lastRx.pcb = 0x83#8 ∨ s.lastRx.pcb = 0x93#8) ∧
      decodeFields s.lastRx.pcb s.lastRx.len s.lastRx.data = .error (.undefinedErrKind (pcbNr s.lastRx.pcb)))

/-- A step runs the decoded instruction. On the command port: `exec` of the operation, taken off the port. In EVAL: of
the block in RXBUF, in the state step 3 of the handle loop leaves (`recovery` OK, `first_transmission` false), with
whatever the checksum check left in the accumulators (R120, R145, R172; the step's size is log entry 24). -/
def Obligations.StepRunsTheDecodedInstruction : Prop :=
  (∀ (c : CmdPort) (k : ChecksumKind) (i : Instr) (s : State), s.port = some c → decode k (.port c) = .ok i →
    step s = exec i { s with port := none }) ∧
  (∀ (i : Instr) (s : State), Inv s → dispatches s → i.wf = true →
    decode s.atp.checksum (.block (s.rxBuf.bytes 0 s.rxLen.toNat)) = .ok i →
      ∃ c l, step s = exec i { s with recovery := .ok, firstTransmission := false, crcAcc := c, lrcAcc := l })

/-- An R-block with error kind 11 is processed like the R_OK with its N(R) (R75 a, R147, U2; log entry 20). -/
def Obligations.UndefinedErrorKindActsAsRBlock : Prop :=
  ∀ (nr : Seq) (s : State), dispatches s → s.lastRx.len = 0x00#8 → s.lastRx.data = [] →
    s.lastRx.pcb = 0x83#8 ||| (nr.setWidth 8 <<< 4) → step s = exec (.rOk nr) s.sumReceived.settle

/-- The recovery transition (R166). -/
def Obligations.RecoveryTransitionTable : Prop :=
  (∀ ft, nextRecovery .ok ft = .resend1) ∧ (∀ ft, nextRecovery .resend1 ft = .resend2) ∧
  nextRecovery .resend2 true = .warmReset ∧ nextRecovery .resend2 false = .resync1 ∧
  (∀ ft, nextRecovery .resync1 ft = .resync2) ∧ (∀ ft, nextRecovery .resync2 ft = .resync3) ∧
  (∀ ft, nextRecovery .resync3 ft = .warmReset) ∧ (∀ ft, nextRecovery .warmReset ft = .warmReset)

/-- Entry into recovery (R166 to R168, R170, R186): a timeout, or a block that fails a check, advances `recovery` and
sends that value's block; nothing is saved, and the sequence numbers, `atp`, `ifsd`, `orig` and `resp` are untouched.
That a last block other than CF means "not in WARM_RESET" is log entry 16; the accumulators, which U10 leaves open, are not
stated. -/
def Obligations.ResponseFailureEntersRecovery : Prop :=
  ∀ s : State, s.port = none → s.phase = .eval → s.lastTx.pcb ≠ 0xCF#8 →
    (s.rxLen = 0#9 → ∃ t, step s = .next t ∧ t = { inRecovery s with crcAcc := t.crcAcc, lrcAcc := t.lrcAcc }) ∧
    (s.rxLen ≠ 0#9 → consistent s ≠ 0 → ∃ t, step s = .next t ∧
      t = { inRecovery s with crcAcc := t.crcAcc, lrcAcc := t.lrcAcc, free := t.free })

/-- The end of the WARM_RESET action (R169): anything but a consistent SWRESET response ends the operation with
ERR(Reset) and no further block; the response is processed first. That the exchange is the WARM_RESET action's is read
from `last_tx`, log entry 16. -/
def Obligations.WarmResetAlwaysEndsTheOperation : Prop :=
  ∀ s : State, Inv s → s.port = none → s.phase = .eval → s.lastTx.pcb = 0xCF#8 →
    ∃ t, step s = .next t ∧ t.phase = .idle ∧ t.events = s.events ∧ t.lastTx = s.lastTx ∧ t.orig = s.orig ∧
      t.outcome = (if s.apdu.isNone then some (.err .reset) else s.outcome) ∧
      t.apdu = s.apdu.map (fun x => { x with part := some (.err .reset) }) ∧
      ((s.rxLen = 0#9 ∨ consistent s ≠ 0) → t.recovery = s.recovery ∧ t.firstTransmission = s.firstTransmission ∧
        t.nsMaster = s.nsMaster ∧ t.nsSlave = s.nsSlave ∧ t.atp = s.atp) ∧
      (s.rxLen ≠ 0#9 → consistent s = 0 → t.recovery = .ok ∧ t.firstTransmission = false ∧
        t.nsMaster = 0#1 ∧ t.nsSlave = 0#1 ∧ t.atp = (Config.atpParse s.lastRx.data).getD s.atp)

/-- Escalation order (R166, R170, R173): from any recovery value, when every further window ends with no answer, the
engine sends exactly the blocks of the escalation, in order, one window each, and the operation ends with ERR(Reset),
`recovery` at WARM_RESET, the sequence numbers, `atp` and `orig` as they were. A window is three steps, log entry
24. -/
def Obligations.SilentCardEscalatesToReset : Prop :=
  ∀ (s : State) (w : List WriteDraw) (r : List ReadDraw),
    let pcbs := escalation s.firstTransmission s.nsSlave s.recovery
    s.port = none → s.phase = .eval → s.rxLen = 0#9 → s.lastTx.pcb ≠ 0xCF#8 → s.apdu = none → s.txBuf.wf = true →
    s.linkWr = List.replicate pcbs.length .ok ++ w → s.linkRd = List.replicate pcbs.length .expired ++ r →
      ∃ t, Sys2Proof.core.run (3 * pcbs.length + 1) s = .next t ∧
        framesSent t.events = framesSent s.events ++ pcbs.map (fun p => image s.atp.checksum 0x00#8 p []) ∧
        t.outcome = some (.err .reset) ∧ t.phase = .idle ∧ t.recovery = .warmReset ∧
        t.firstTransmission = s.firstTransmission ∧ t.nsMaster = s.nsMaster ∧ t.nsSlave = s.nsSlave ∧
        t.atp = s.atp ∧ t.orig = s.orig ∧ t.linkWr = w ∧ t.linkRd = r

/-- WTX extends the window (R150, R158 d, R190): after a consistent WTX request the very next window is armed with its
multiplier, and the response that goes out before it echoes the byte. -/
def Obligations.WtxWindowIsArmedWithMultiplier : Prop :=
  ∀ (mult : Byte) (s : State) (rest : List WriteDraw), Inv s → dispatches s → s.lastRx.pcb = 0xC3#8 →
    s.lastRx.data = [mult] → s.linkWr = .ok :: rest →
      ∃ t, Sys2Proof.core.run 2 s = .next t ∧ t.phase = .wait ∧ t.nbwt = mult ∧
        t.events = s.events ++
          [.linkWrite (image s.atp.checksum 0x00#8 0xE3#8 [mult]), .timerArm mult s.atp.bwt]

/-! ### The state as a whole -/

/-- Hardware reset (R30): UNINIT, not initialised, `rx_len` 0, `resp` empty. In UNINIT, whatever else the state holds
and the link has to give, the engine sends nothing, does not touch the link and changes nothing until the host presents an
operation (R16, R200). -/
def Obligations.ResetWaitsForInit : Prop :=
  State.reset.phase = .uninit ∧ State.reset.initialized = false ∧ State.reset.rxLen = 0#9 ∧ State.reset.resp = [] ∧
  ∀ s : State, s.port = none → s.phase = .uninit → step s = .next s

/-- The invariant holds right after reset. It rests on the model's values for the elements R30 leaves unspecified, log
entry 7. -/
def Obligations.ResetSatisfiesInvariant : Prop := Inv State.reset

/-- Every step keeps the invariant: the buffers' canonical form, well-formed TPDU registers with the engine's NAD and
only PCBs the engine may send, `ifsd = 254`, the multiplier, the received block as PARSE reads it, the wrapper in
step. -/
def Obligations.StepKeepsInvariant : Prop := ∀ s t : State, Inv s → step s = .next t → Inv t

/-- No run from a state of the invariant comes to a fault, of whatever length and whatever the link draws. -/
def Obligations.InvariantRunsNeverFault : Prop := ∀ (n : Nat) (s : State), Inv s → SafeRun n s

/-- The sequence numbers change only where R20 and R21 say: INIT, a consistent I-block, a consistent R-block that
acknowledges a chained `orig` (`ns_master` only), RESYNCH request or response, SWRESET response. -/
def Obligations.SequenceNumbersChangeOnlyAtTheirEvents : Prop :=
  ∀ s t : State, step s = .next t →
    (t.nsSlave ≠ s.nsSlave → presentsInit s ∨
      (dispatches s ∧ (blockKind s.lastRx.pcb = .I ∨ s.lastRx.pcb ∈ [0xC0#8, 0xE0#8, 0xEF#8]))) ∧
    (t.nsMaster ≠ s.nsMaster → presentsInit s ∨
      (dispatches s ∧
        ((blockKind s.lastRx.pcb = .I ∧ blockKind s.orig.pcb = .I) ∨
          (blockKind s.lastRx.pcb = .R ∧ s.orig.chained = true ∧ pcbNr s.lastRx.pcb = s.nsMaster ^^^ 1#1) ∨
          s.lastRx.pcb ∈ [0xC0#8, 0xE0#8, 0xEF#8])))

/-- `first_transmission`, once false, stays false until the next INIT (R18, R34 e). -/
def Obligations.FirstTransmissionReturnsOnlyByInit : Prop :=
  ∀ s t : State, step s = .next t → s.firstTransmission = false → t.firstTransmission = true → presentsInit s

/-- `atp` changes only by INIT, a consistent IFS request (`atp.ifsc` alone) and a consistent SWRESET response (R24). -/
def Obligations.AtpChangesOnlyAtItsEvents : Prop :=
  ∀ s t : State, step s = .next t → t.atp ≠ s.atp → presentsInit s ∨
    (dispatches s ∧
      ((s.lastRx.pcb = 0xC1#8 ∧ ∃ b, s.lastRx.data = [b] ∧ t.atp = { s.atp with ifsc := b }) ∨
        (s.lastRx.pcb = 0xEF#8 ∧ Config.atpParse s.lastRx.data = some t.atp)))

/-- `phase` moves only as the table of R16 says, a step that waits and a failed INIT added (R16, R121). -/
def Obligations.PhaseMovesFollowTheTable : Prop :=
  ∀ s t : State, step s = .next t → t.phase ∈ phaseMoves s.phase

/-- Half-duplex (R50 a, R209): a frame goes to the link only in SEND, one frame a step, and the step then leaves SEND;
the card's stream is read only in WAIT and READ. -/
def Obligations.HalfDuplexDiscipline : Prop :=
  ∀ s t : State, step s = .next t →
    (framesSent t.events = framesSent s.events ∨
      (s.phase = .send ∧ t.phase = .wait ∧ ∃ f, framesSent t.events = framesSent s.events ++ [f])) ∧
    (t.linkRd ≠ s.linkRd → s.phase = .wait ∨ s.phase = .read)

/-- The cached ATP file is deleted only by a response failure that takes the WARM_RESET action, and the SWRESET request
is then the block under way (R57, R169, R195). -/
def Obligations.CacheDeletedOnlyByWarmReset : Prop :=
  ∀ s t : State, step s = .next t → Event.atpCacheDelete ∈ t.events.drop s.events.length →
    t.recovery = .warmReset ∧ t.phase = .send ∧ t.lastTx.pcb = 0xCF#8 ∧ t.events = s.events ++ [.atpCacheDelete]

/-- The multiplier left behind (R150, R165, R187; against R34 d): after a consistent WTX request whose response the link
fails to take, the operation ends with ERR(Io), nothing has gone out, and in IDLE `nbwt` still holds the request's
multiplier, whatever it is. The model follows R165; log entry 18. -/
def Obligations.FailedWriteLeavesMultiplier : Prop :=
  ∀ (mult : Byte) (s : State) (rest : List WriteDraw), Inv s → dispatches s → s.lastRx.pcb = 0xC3#8 →
    s.lastRx.data = [mult] → s.linkWr = .ioErr :: rest →
      ∃ t, Sys2Proof.core.run 2 s = .next t ∧ t.phase = .idle ∧ t.nbwt = mult ∧
        t.outcome = (if s.apdu.isNone then some (.err .io) else s.outcome) ∧
        t.apdu = s.apdu.map (fun x => { x with part := some (.err .io) }) ∧
        t.events = s.events ∧ t.linkWr = rest

/-- The capacity of `resp` (R17), for every value of RESP_MAX: storing a response that fits changes `resp` alone; after
one that does not, `resp` holds some bytes within the capacity, log entry 26. -/
def Obligations.ResponseStaysWithinCapacity : Prop :=
  ∀ (respMax : Option Nat) (data : List Byte) (s : State),
    ((∀ n, respMax = some n → data.length ≤ n) → s.storeResp respMax data = { s with resp := data }) ∧
    (∀ n, respMax = some n → n < data.length →
      (s.storeResp respMax data).resp.length ≤ n ∧
      s.storeResp respMax data =
        { s with resp := (s.storeResp respMax data).resp, free := (s.storeResp respMax data).free })
end

