-- ==== Sys2Proof/Laws/Checksum.lean ====
section
/-! SUPPORT. The checksum engines: linearity and injectivity of the CRC's steps. -/

namespace Sys2Proof.Machine

/-- The top bit after a step is the bottom bit before it: the polynomial's top bit is 1. -/
theorem crcBit_top (x : Word16) : (crcBit x).getLsbD 15 = x.getLsbD 0 := by
  unfold crcBit Config.crcParams
  split <;> simp_all

/-- One step is injective. -/
theorem crcBit_inj {a b : Word16} (h : crcBit a = crcBit b) : a = b := by
  have h0 : a.getLsbD 0 = b.getLsbD 0 := by rw [← crcBit_top, ← crcBit_top, h]
  have hs : a >>> 1 = b >>> 1 := by
    unfold crcBit at h
    rw [h0] at h
    split at h
    · exact (BitVec.xor_left_inj (Config.crcParams.poly)).1 h
    · exact h
  apply BitVec.eq_of_getLsbD_eq
  intro i hi
  cases i with
  | zero => exact h0
  | succ i =>
    have := congrArg (fun v => v.getLsbD i) hs
    simp only [BitVec.getLsbD_ushiftRight] at this
    rwa [Nat.add_comm]

theorem crcBits_inj (n : Nat) {a b : Word16} (h : crcBits n a = crcBits n b) : a = b := by
  induction n generalizing a b with
  | zero => exact h
  | succ n ih => exact crcBit_inj (ih h)

/-- Summing the same bytes is injective in the accumulator. -/
theorem crcFrom_inj (bs : List Byte) {a b : Word16} (h : crcFrom a bs = crcFrom b bs) : a = b := by
  induction bs generalizing a b with
  | nil => exact h
  | cons c bs ih => exact (BitVec.xor_left_inj _).1 (crcBits_inj 8 (ih h))

/-- One step is linear. -/
theorem crcBit_xor (a b : Word16) : crcBit (a ^^^ b) = crcBit a ^^^ crcBit b := by
  unfold crcBit Config.crcParams
  simp only [BitVec.getLsbD_xor]
  cases a.getLsbD 0 <;> cases b.getLsbD 0 <;> simp [BitVec.ushiftRight_xor_distrib]
  all_goals
    apply BitVec.eq_of_getLsbD_eq
    intro i hi
    simp
    try (cases a.getLsbD (1 + i) <;> cases b.getLsbD (1 + i) <;> simp)

theorem crcBits_xor (n : Nat) (a b : Word16) : crcBits n (a ^^^ b) = crcBits n a ^^^ crcBits n b := by
  induction n generalizing a b with
  | zero => rfl
  | succ n ih => simp [crcBits, crcBit_xor, ih]

/-- Steps over zero bits only shift. -/
theorem crcBits_shift (x : Word16) (n : Nat) (h : ∀ i, i < n → x.getLsbD i = false) : crcBits n x = x >>> n := by
  induction n generalizing x with
  | zero => simp [crcBits]
  | succ n ih =>
    have h0 : crcBit x = x >>> 1 := by unfold crcBit; rw [if_neg (by rw [h 0 (by omega)]; simp)]
    rw [crcBits, h0, ih _ fun i hi => by rw [BitVec.getLsbD_ushiftRight]; exact h _ (by omega)]
    rw [← BitVec.shiftRight_add, Nat.add_comm]

theorem crcFrom_append (a : Word16) (bs cs : List Byte) : crcFrom a (bs ++ cs) = crcFrom (crcFrom a bs) cs :=
  List.foldl_append

end Sys2Proof.Machine
end

