-- ==== Sys2Proof/Laws/State.lean ====
section
/-! SUPPORT. One lemma per field per named update of State, so that no proof unfolds a record update. -/

namespace Sys2Proof.Machine

/-! ### exchange (R165) -/

@[simp] theorem State.exchange_orig (s : State) (t : Tpdu) : (s.exchange t).orig = s.orig := rfl
@[simp] theorem State.exchange_lastTx (s : State) (t : Tpdu) : (s.exchange t).lastTx = t := rfl
@[simp] theorem State.exchange_lastRx (s : State) (t : Tpdu) : (s.exchange t).lastRx = s.lastRx := rfl
@[simp] theorem State.exchange_rxLen (s : State) (t : Tpdu) : (s.exchange t).rxLen = s.rxLen := rfl
@[simp] theorem State.exchange_crcAcc (s : State) (t : Tpdu) : (s.exchange t).crcAcc = s.crcAcc := rfl
@[simp] theorem State.exchange_lrcAcc (s : State) (t : Tpdu) : (s.exchange t).lrcAcc = s.lrcAcc := rfl
@[simp] theorem State.exchange_phase (s : State) (t : Tpdu) : (s.exchange t).phase = .send := rfl
@[simp] theorem State.exchange_resp (s : State) (t : Tpdu) : (s.exchange t).resp = s.resp := rfl
@[simp] theorem State.exchange_firstTransmission (s : State) (t : Tpdu) : (s.exchange t).firstTransmission = s.firstTransmission := rfl
@[simp] theorem State.exchange_initialized (s : State) (t : Tpdu) : (s.exchange t).initialized = s.initialized := rfl
@[simp] theorem State.exchange_nsMaster (s : State) (t : Tpdu) : (s.exchange t).nsMaster = s.nsMaster := rfl
@[simp] theorem State.exchange_nsSlave (s : State) (t : Tpdu) : (s.exchange t).nsSlave = s.nsSlave := rfl
@[simp] theorem State.exchange_recovery (s : State) (t : Tpdu) : (s.exchange t).recovery = s.recovery := rfl
@[simp] theorem State.exchange_ifsd (s : State) (t : Tpdu) : (s.exchange t).ifsd = s.ifsd := rfl
@[simp] theorem State.exchange_atp (s : State) (t : Tpdu) : (s.exchange t).atp = s.atp := rfl
@[simp] theorem State.exchange_nbwt (s : State) (t : Tpdu) : (s.exchange t).nbwt = s.nbwt := rfl
@[simp] theorem State.exchange_txBuf (s : State) (t : Tpdu) : (s.exchange t).txBuf = s.txBuf := rfl
@[simp] theorem State.exchange_rxBuf (s : State) (t : Tpdu) : (s.exchange t).rxBuf = s.rxBuf := rfl
@[simp] theorem State.exchange_apdu (s : State) (t : Tpdu) : (s.exchange t).apdu = s.apdu := rfl
@[simp] theorem State.exchange_port (s : State) (t : Tpdu) : (s.exchange t).port = s.port := rfl
@[simp] theorem State.exchange_outcome (s : State) (t : Tpdu) : (s.exchange t).outcome = s.outcome := rfl
@[simp] theorem State.exchange_linkWr (s : State) (t : Tpdu) : (s.exchange t).linkWr = s.linkWr := rfl
@[simp] theorem State.exchange_linkRd (s : State) (t : Tpdu) : (s.exchange t).linkRd = s.linkRd := rfl
@[simp] theorem State.exchange_events (s : State) (t : Tpdu) : (s.exchange t).events = s.events := rfl
@[simp] theorem State.exchange_free (s : State) (t : Tpdu) : (s.exchange t).free = s.free := rfl

/-! ### settle (R172, step 3) -/

@[simp] theorem State.settle_orig (s : State) : (s.settle).orig = s.orig := rfl
@[simp] theorem State.settle_lastTx (s : State) : (s.settle).lastTx = s.lastTx := rfl
@[simp] theorem State.settle_lastRx (s : State) : (s.settle).lastRx = s.lastRx := rfl
@[simp] theorem State.settle_rxLen (s : State) : (s.settle).rxLen = s.rxLen := rfl
@[simp] theorem State.settle_crcAcc (s : State) : (s.settle).crcAcc = s.crcAcc := rfl
@[simp] theorem State.settle_lrcAcc (s : State) : (s.settle).lrcAcc = s.lrcAcc := rfl
@[simp] theorem State.settle_phase (s : State) : (s.settle).phase = s.phase := rfl
@[simp] theorem State.settle_resp (s : State) : (s.settle).resp = s.resp := rfl
@[simp] theorem State.settle_firstTransmission (s : State) : (s.settle).firstTransmission = false := rfl
@[simp] theorem State.settle_initialized (s : State) : (s.settle).initialized = s.initialized := rfl
@[simp] theorem State.settle_nsMaster (s : State) : (s.settle).nsMaster = s.nsMaster := rfl
@[simp] theorem State.settle_nsSlave (s : State) : (s.settle).nsSlave = s.nsSlave := rfl
@[simp] theorem State.settle_recovery (s : State) : (s.settle).recovery = .ok := rfl
@[simp] theorem State.settle_ifsd (s : State) : (s.settle).ifsd = s.ifsd := rfl
@[simp] theorem State.settle_atp (s : State) : (s.settle).atp = s.atp := rfl
@[simp] theorem State.settle_nbwt (s : State) : (s.settle).nbwt = s.nbwt := rfl
@[simp] theorem State.settle_txBuf (s : State) : (s.settle).txBuf = s.txBuf := rfl
@[simp] theorem State.settle_rxBuf (s : State) : (s.settle).rxBuf = s.rxBuf := rfl
@[simp] theorem State.settle_apdu (s : State) : (s.settle).apdu = s.apdu := rfl
@[simp] theorem State.settle_port (s : State) : (s.settle).port = s.port := rfl
@[simp] theorem State.settle_outcome (s : State) : (s.settle).outcome = s.outcome := rfl
@[simp] theorem State.settle_linkWr (s : State) : (s.settle).linkWr = s.linkWr := rfl
@[simp] theorem State.settle_linkRd (s : State) : (s.settle).linkRd = s.linkRd := rfl
@[simp] theorem State.settle_events (s : State) : (s.settle).events = s.events := rfl
@[simp] theorem State.settle_free (s : State) : (s.settle).free = s.free := rfl

/-! ### storeResp (R17), at the default capacity -/

@[simp] theorem State.storeResp_unbounded (s : State) (data : List Byte) :
    s.storeResp Config.respMax data = { s with resp := data } := rfl

/-! ### loseResp (R187) -/

@[simp] theorem State.loseResp_orig (s : State) : (s.loseResp).orig = s.orig := rfl
@[simp] theorem State.loseResp_lastTx (s : State) : (s.loseResp).lastTx = s.lastTx := rfl
@[simp] theorem State.loseResp_lastRx (s : State) : (s.loseResp).lastRx = s.lastRx := rfl
@[simp] theorem State.loseResp_rxLen (s : State) : (s.loseResp).rxLen = s.rxLen := rfl
@[simp] theorem State.loseResp_crcAcc (s : State) : (s.loseResp).crcAcc = s.crcAcc := rfl
@[simp] theorem State.loseResp_lrcAcc (s : State) : (s.loseResp).lrcAcc = s.lrcAcc := rfl
@[simp] theorem State.loseResp_phase (s : State) : (s.loseResp).phase = s.phase := rfl
@[simp] theorem State.loseResp_resp (s : State) : (s.loseResp).resp = Config.freeBytes s.free := rfl
@[simp] theorem State.loseResp_firstTransmission (s : State) : (s.loseResp).firstTransmission = s.firstTransmission := rfl
@[simp] theorem State.loseResp_initialized (s : State) : (s.loseResp).initialized = s.initialized := rfl
@[simp] theorem State.loseResp_nsMaster (s : State) : (s.loseResp).nsMaster = s.nsMaster := rfl
@[simp] theorem State.loseResp_nsSlave (s : State) : (s.loseResp).nsSlave = s.nsSlave := rfl
@[simp] theorem State.loseResp_recovery (s : State) : (s.loseResp).recovery = s.recovery := rfl
@[simp] theorem State.loseResp_ifsd (s : State) : (s.loseResp).ifsd = s.ifsd := rfl
@[simp] theorem State.loseResp_atp (s : State) : (s.loseResp).atp = s.atp := rfl
@[simp] theorem State.loseResp_nbwt (s : State) : (s.loseResp).nbwt = s.nbwt := rfl
@[simp] theorem State.loseResp_txBuf (s : State) : (s.loseResp).txBuf = s.txBuf := rfl
@[simp] theorem State.loseResp_rxBuf (s : State) : (s.loseResp).rxBuf = s.rxBuf := rfl
@[simp] theorem State.loseResp_apdu (s : State) : (s.loseResp).apdu = s.apdu := rfl
@[simp] theorem State.loseResp_port (s : State) : (s.loseResp).port = s.port := rfl
@[simp] theorem State.loseResp_outcome (s : State) : (s.loseResp).outcome = s.outcome := rfl
@[simp] theorem State.loseResp_linkWr (s : State) : (s.loseResp).linkWr = s.linkWr := rfl
@[simp] theorem State.loseResp_linkRd (s : State) : (s.loseResp).linkRd = s.linkRd := rfl
@[simp] theorem State.loseResp_events (s : State) : (s.loseResp).events = s.events := rfl
@[simp] theorem State.loseResp_free (s : State) : (s.loseResp).free = s.free + 1 := rfl

/-! ### zeroSeq (R32) -/

@[simp] theorem State.zeroSeq_orig (s : State) : (s.zeroSeq).orig = s.orig := rfl
@[simp] theorem State.zeroSeq_lastTx (s : State) : (s.zeroSeq).lastTx = s.lastTx := rfl
@[simp] theorem State.zeroSeq_lastRx (s : State) : (s.zeroSeq).lastRx = s.lastRx := rfl
@[simp] theorem State.zeroSeq_rxLen (s : State) : (s.zeroSeq).rxLen = s.rxLen := rfl
@[simp] theorem State.zeroSeq_crcAcc (s : State) : (s.zeroSeq).crcAcc = s.crcAcc := rfl
@[simp] theorem State.zeroSeq_lrcAcc (s : State) : (s.zeroSeq).lrcAcc = s.lrcAcc := rfl
@[simp] theorem State.zeroSeq_phase (s : State) : (s.zeroSeq).phase = s.phase := rfl
@[simp] theorem State.zeroSeq_resp (s : State) : (s.zeroSeq).resp = s.resp := rfl
@[simp] theorem State.zeroSeq_firstTransmission (s : State) : (s.zeroSeq).firstTransmission = s.firstTransmission := rfl
@[simp] theorem State.zeroSeq_initialized (s : State) : (s.zeroSeq).initialized = s.initialized := rfl
@[simp] theorem State.zeroSeq_nsMaster (s : State) : (s.zeroSeq).nsMaster = 0#1 := rfl
@[simp] theorem State.zeroSeq_nsSlave (s : State) : (s.zeroSeq).nsSlave = 0#1 := rfl
@[simp] theorem State.zeroSeq_recovery (s : State) : (s.zeroSeq).recovery = s.recovery := rfl
@[simp] theorem State.zeroSeq_ifsd (s : State) : (s.zeroSeq).ifsd = s.ifsd := rfl
@[simp] theorem State.zeroSeq_atp (s : State) : (s.zeroSeq).atp = s.atp := rfl
@[simp] theorem State.zeroSeq_nbwt (s : State) : (s.zeroSeq).nbwt = s.nbwt := rfl
@[simp] theorem State.zeroSeq_txBuf (s : State) : (s.zeroSeq).txBuf = s.txBuf := rfl
@[simp] theorem State.zeroSeq_rxBuf (s : State) : (s.zeroSeq).rxBuf = s.rxBuf := rfl
@[simp] theorem State.zeroSeq_apdu (s : State) : (s.zeroSeq).apdu = s.apdu := rfl
@[simp] theorem State.zeroSeq_port (s : State) : (s.zeroSeq).port = s.port := rfl
@[simp] theorem State.zeroSeq_outcome (s : State) : (s.zeroSeq).outcome = s.outcome := rfl
@[simp] theorem State.zeroSeq_linkWr (s : State) : (s.zeroSeq).linkWr = s.linkWr := rfl
@[simp] theorem State.zeroSeq_linkRd (s : State) : (s.zeroSeq).linkRd = s.linkRd := rfl
@[simp] theorem State.zeroSeq_events (s : State) : (s.zeroSeq).events = s.events := rfl
@[simp] theorem State.zeroSeq_free (s : State) : (s.zeroSeq).free = s.free := rfl

/-! ### initWith (R31) -/

@[simp] theorem State.initWith_orig (s : State) (a : Atp) : (s.initWith a).orig = s.orig := rfl
@[simp] theorem State.initWith_lastTx (s : State) (a : Atp) : (s.initWith a).lastTx = s.lastTx := rfl
@[simp] theorem State.initWith_lastRx (s : State) (a : Atp) : (s.initWith a).lastRx = s.lastRx := rfl
@[simp] theorem State.initWith_rxLen (s : State) (a : Atp) : (s.initWith a).rxLen = 0#9 := rfl
@[simp] theorem State.initWith_crcAcc (s : State) (a : Atp) : (s.initWith a).crcAcc = s.crcAcc := rfl
@[simp] theorem State.initWith_lrcAcc (s : State) (a : Atp) : (s.initWith a).lrcAcc = s.lrcAcc := rfl
@[simp] theorem State.initWith_phase (s : State) (a : Atp) : (s.initWith a).phase = .idle := rfl
@[simp] theorem State.initWith_resp (s : State) (a : Atp) : (s.initWith a).resp = [] := rfl
@[simp] theorem State.initWith_firstTransmission (s : State) (a : Atp) : (s.initWith a).firstTransmission = true := rfl
@[simp] theorem State.initWith_initialized (s : State) (a : Atp) : (s.initWith a).initialized = true := rfl
@[simp] theorem State.initWith_nsMaster (s : State) (a : Atp) : (s.initWith a).nsMaster = 0#1 := rfl
@[simp] theorem State.initWith_nsSlave (s : State) (a : Atp) : (s.initWith a).nsSlave = 0#1 := rfl
@[simp] theorem State.initWith_recovery (s : State) (a : Atp) : (s.initWith a).recovery = .ok := rfl
@[simp] theorem State.initWith_ifsd (s : State) (a : Atp) : (s.initWith a).ifsd = ifsdDefault := rfl
@[simp] theorem State.initWith_atp (s : State) (a : Atp) : (s.initWith a).atp = a := rfl
@[simp] theorem State.initWith_nbwt (s : State) (a : Atp) : (s.initWith a).nbwt = 1#8 := rfl
@[simp] theorem State.initWith_txBuf (s : State) (a : Atp) : (s.initWith a).txBuf = s.txBuf := rfl
@[simp] theorem State.initWith_rxBuf (s : State) (a : Atp) : (s.initWith a).rxBuf = s.rxBuf := rfl
@[simp] theorem State.initWith_apdu (s : State) (a : Atp) : (s.initWith a).apdu = s.apdu := rfl
@[simp] theorem State.initWith_port (s : State) (a : Atp) : (s.initWith a).port = s.port := rfl
@[simp] theorem State.initWith_outcome (s : State) (a : Atp) : (s.initWith a).outcome = some .ok := rfl
@[simp] theorem State.initWith_linkWr (s : State) (a : Atp) : (s.initWith a).linkWr = s.linkWr := rfl
@[simp] theorem State.initWith_linkRd (s : State) (a : Atp) : (s.initWith a).linkRd = s.linkRd := rfl
@[simp] theorem State.initWith_events (s : State) (a : Atp) : (s.initWith a).events = s.events := rfl
@[simp] theorem State.initWith_free (s : State) (a : Atp) : (s.initWith a).free = s.free := rfl

/-! ### initFailed (R187) -/

@[simp] theorem State.initFailed_orig (s : State) : (s.initFailed).orig = s.orig := rfl
@[simp] theorem State.initFailed_lastTx (s : State) : (s.initFailed).lastTx = s.lastTx := rfl
@[simp] theorem State.initFailed_lastRx (s : State) : (s.initFailed).lastRx = s.lastRx := rfl
@[simp] theorem State.initFailed_rxLen (s : State) : (s.initFailed).rxLen = s.rxLen := rfl
@[simp] theorem State.initFailed_crcAcc (s : State) : (s.initFailed).crcAcc = s.crcAcc := rfl
@[simp] theorem State.initFailed_lrcAcc (s : State) : (s.initFailed).lrcAcc = s.lrcAcc := rfl
@[simp] theorem State.initFailed_phase (s : State) : (s.initFailed).phase = .uninit := rfl
@[simp] theorem State.initFailed_resp (s : State) : (s.initFailed).resp = Config.freeBytes s.free := rfl
@[simp] theorem State.initFailed_firstTransmission (s : State) : (s.initFailed).firstTransmission = Config.freeFlag s.free := rfl
@[simp] theorem State.initFailed_initialized (s : State) : (s.initFailed).initialized = false := rfl
@[simp] theorem State.initFailed_nsMaster (s : State) : (s.initFailed).nsMaster = Config.freeNsMaster s.free := rfl
@[simp] theorem State.initFailed_nsSlave (s : State) : (s.initFailed).nsSlave = Config.freeNsSlave s.free := rfl
@[simp] theorem State.initFailed_recovery (s : State) : (s.initFailed).recovery = Config.freeRecovery s.free := rfl
@[simp] theorem State.initFailed_ifsd (s : State) : (s.initFailed).ifsd = s.ifsd := rfl
@[simp] theorem State.initFailed_atp (s : State) : (s.initFailed).atp = Config.freeAtp s.free := rfl
@[simp] theorem State.initFailed_nbwt (s : State) : (s.initFailed).nbwt = s.nbwt := rfl
@[simp] theorem State.initFailed_txBuf (s : State) : (s.initFailed).txBuf = s.txBuf := rfl
@[simp] theorem State.initFailed_rxBuf (s : State) : (s.initFailed).rxBuf = s.rxBuf := rfl
@[simp] theorem State.initFailed_apdu (s : State) : (s.initFailed).apdu = s.apdu := rfl
@[simp] theorem State.initFailed_port (s : State) : (s.initFailed).port = s.port := rfl
@[simp] theorem State.initFailed_outcome (s : State) : (s.initFailed).outcome = some (.err .io) := rfl
@[simp] theorem State.initFailed_linkWr (s : State) : (s.initFailed).linkWr = s.linkWr := rfl
@[simp] theorem State.initFailed_linkRd (s : State) : (s.initFailed).linkRd = s.linkRd := rfl
@[simp] theorem State.initFailed_events (s : State) : (s.initFailed).events = s.events := rfl
@[simp] theorem State.initFailed_free (s : State) : (s.initFailed).free = s.free + 1 := rfl

/-! ### apduErr (R127) -/

@[simp] theorem State.apduErr_orig (s : State) (k : ErrKind) : (s.apduErr k).orig = s.orig := rfl
@[simp] theorem State.apduErr_lastTx (s : State) (k : ErrKind) : (s.apduErr k).lastTx = s.lastTx := rfl
@[simp] theorem State.apduErr_lastRx (s : State) (k : ErrKind) : (s.apduErr k).lastRx = s.lastRx := rfl
@[simp] theorem State.apduErr_rxLen (s : State) (k : ErrKind) : (s.apduErr k).rxLen = s.rxLen := rfl
@[simp] theorem State.apduErr_crcAcc (s : State) (k : ErrKind) : (s.apduErr k).crcAcc = s.crcAcc := rfl
@[simp] theorem State.apduErr_lrcAcc (s : State) (k : ErrKind) : (s.apduErr k).lrcAcc = s.lrcAcc := rfl
@[simp] theorem State.apduErr_phase (s : State) (k : ErrKind) : (s.apduErr k).phase = s.phase := rfl
@[simp] theorem State.apduErr_resp (s : State) (k : ErrKind) : (s.apduErr k).resp = Config.freeBytes s.free := rfl
@[simp] theorem State.apduErr_firstTransmission (s : State) (k : ErrKind) : (s.apduErr k).firstTransmission = s.firstTransmission := rfl
@[simp] theorem State.apduErr_initialized (s : State) (k : ErrKind) : (s.apduErr k).initialized = s.initialized := rfl
@[simp] theorem State.apduErr_nsMaster (s : State) (k : ErrKind) : (s.apduErr k).nsMaster = s.nsMaster := rfl
@[simp] theorem State.apduErr_nsSlave (s : State) (k : ErrKind) : (s.apduErr k).nsSlave = s.nsSlave := rfl
@[simp] theorem State.apduErr_recovery (s : State) (k : ErrKind) : (s.apduErr k).recovery = s.recovery := rfl
@[simp] theorem State.apduErr_ifsd (s : State) (k : ErrKind) : (s.apduErr k).ifsd = s.ifsd := rfl
@[simp] theorem State.apduErr_atp (s : State) (k : ErrKind) : (s.apduErr k).atp = s.atp := rfl
@[simp] theorem State.apduErr_nbwt (s : State) (k : ErrKind) : (s.apduErr k).nbwt = s.nbwt := rfl
@[simp] theorem State.apduErr_txBuf (s : State) (k : ErrKind) : (s.apduErr k).txBuf = s.txBuf := rfl
@[simp] theorem State.apduErr_rxBuf (s : State) (k : ErrKind) : (s.apduErr k).rxBuf = s.rxBuf := rfl
@[simp] theorem State.apduErr_apdu (s : State) (k : ErrKind) : (s.apduErr k).apdu = none := rfl
@[simp] theorem State.apduErr_port (s : State) (k : ErrKind) : (s.apduErr k).port = s.port := rfl
@[simp] theorem State.apduErr_outcome (s : State) (k : ErrKind) : (s.apduErr k).outcome = some (.err k) := rfl
@[simp] theorem State.apduErr_linkWr (s : State) (k : ErrKind) : (s.apduErr k).linkWr = s.linkWr := rfl
@[simp] theorem State.apduErr_linkRd (s : State) (k : ErrKind) : (s.apduErr k).linkRd = s.linkRd := rfl
@[simp] theorem State.apduErr_events (s : State) (k : ErrKind) : (s.apduErr k).events = s.events := rfl
@[simp] theorem State.apduErr_free (s : State) (k : ErrKind) : (s.apduErr k).free = s.free + 1 := rfl

/-! ### received (R112) -/

@[simp] theorem State.received_orig (s : State) (buf : Memory) (rest : List ReadDraw) : (s.received buf rest).orig = s.orig := rfl
@[simp] theorem State.received_lastTx (s : State) (buf : Memory) (rest : List ReadDraw) : (s.received buf rest).lastTx = s.lastTx := rfl
@[simp] theorem State.received_lastRx (s : State) (buf : Memory) (rest : List ReadDraw) : (s.received buf rest).lastRx = parse s.atp.checksum buf := rfl
@[simp] theorem State.received_rxLen (s : State) (buf : Memory) (rest : List ReadDraw) : (s.received buf rest).rxLen = BitVec.ofNat 9 (3 + frameLen buf + epilogueLen s.atp.checksum) := rfl
@[simp] theorem State.received_crcAcc (s : State) (buf : Memory) (rest : List ReadDraw) : (s.received buf rest).crcAcc = s.crcAcc := rfl
@[simp] theorem State.received_lrcAcc (s : State) (buf : Memory) (rest : List ReadDraw) : (s.received buf rest).lrcAcc = s.lrcAcc := rfl
@[simp] theorem State.received_phase (s : State) (buf : Memory) (rest : List ReadDraw) : (s.received buf rest).phase = .eval := rfl
@[simp] theorem State.received_resp (s : State) (buf : Memory) (rest : List ReadDraw) : (s.received buf rest).resp = s.resp := rfl
@[simp] theorem State.received_firstTransmission (s : State) (buf : Memory) (rest : List ReadDraw) : (s.received buf rest).firstTransmission = s.firstTransmission := rfl
@[simp] theorem State.received_initialized (s : State) (buf : Memory) (rest : List ReadDraw) : (s.received buf rest).initialized = s.initialized := rfl
@[simp] theorem State.received_nsMaster (s : State) (buf : Memory) (rest : List ReadDraw) : (s.received buf rest).nsMaster = s.nsMaster := rfl
@[simp] theorem State.received_nsSlave (s : State) (buf : Memory) (rest : List ReadDraw) : (s.received buf rest).nsSlave = s.nsSlave := rfl
@[simp] theorem State.received_recovery (s : State) (buf : Memory) (rest : List ReadDraw) : (s.received buf rest).recovery = s.recovery := rfl
@[simp] theorem State.received_ifsd (s : State) (buf : Memory) (rest : List ReadDraw) : (s.received buf rest).ifsd = s.ifsd := rfl
@[simp] theorem State.received_atp (s : State) (buf : Memory) (rest : List ReadDraw) : (s.received buf rest).atp = s.atp := rfl
@[simp] theorem State.received_nbwt (s : State) (buf : Memory) (rest : List ReadDraw) : (s.received buf rest).nbwt = s.nbwt := rfl
@[simp] theorem State.received_txBuf (s : State) (buf : Memory) (rest : List ReadDraw) : (s.received buf rest).txBuf = s.txBuf := rfl
@[simp] theorem State.received_rxBuf (s : State) (buf : Memory) (rest : List ReadDraw) : (s.received buf rest).rxBuf = buf := rfl
@[simp] theorem State.received_apdu (s : State) (buf : Memory) (rest : List ReadDraw) : (s.received buf rest).apdu = s.apdu := rfl
@[simp] theorem State.received_port (s : State) (buf : Memory) (rest : List ReadDraw) : (s.received buf rest).port = s.port := rfl
@[simp] theorem State.received_outcome (s : State) (buf : Memory) (rest : List ReadDraw) : (s.received buf rest).outcome = s.outcome := rfl
@[simp] theorem State.received_linkWr (s : State) (buf : Memory) (rest : List ReadDraw) : (s.received buf rest).linkWr = s.linkWr := rfl
@[simp] theorem State.received_linkRd (s : State) (buf : Memory) (rest : List ReadDraw) : (s.received buf rest).linkRd = rest := rfl
@[simp] theorem State.received_events (s : State) (buf : Memory) (rest : List ReadDraw) : (s.received buf rest).events = s.events := rfl
@[simp] theorem State.received_free (s : State) (buf : Memory) (rest : List ReadDraw) : (s.received buf rest).free = s.free := rfl

/-! ### receivedLong (R113) -/

@[simp] theorem State.receivedLong_orig (s : State) (buf : Memory) (rest : List ReadDraw) : (s.receivedLong buf rest).orig = s.orig := rfl
@[simp] theorem State.receivedLong_lastTx (s : State) (buf : Memory) (rest : List ReadDraw) : (s.receivedLong buf rest).lastTx = s.lastTx := rfl
@[simp] theorem State.receivedLong_lastRx (s : State) (buf : Memory) (rest : List ReadDraw) : (s.receivedLong buf rest).lastRx = { nad := buf.read 0, pcb := buf.read 1, len := 255#8, data := (Config.freeBytes s.free).take lenMax, checksum := Config.freeWord s.free } := rfl
@[simp] theorem State.receivedLong_rxLen (s : State) (buf : Memory) (rest : List ReadDraw) : (s.receivedLong buf rest).rxLen = BitVec.ofNat 9 (258 + epilogueLen s.atp.checksum) := rfl
@[simp] theorem State.receivedLong_crcAcc (s : State) (buf : Memory) (rest : List ReadDraw) : (s.receivedLong buf rest).crcAcc = s.crcAcc := rfl
@[simp] theorem State.receivedLong_lrcAcc (s : State) (buf : Memory) (rest : List ReadDraw) : (s.receivedLong buf rest).lrcAcc = s.lrcAcc := rfl
@[simp] theorem State.receivedLong_phase (s : State) (buf : Memory) (rest : List ReadDraw) : (s.receivedLong buf rest).phase = .eval := rfl
@[simp] theorem State.receivedLong_resp (s : State) (buf : Memory) (rest : List ReadDraw) : (s.receivedLong buf rest).resp = s.resp := rfl
@[simp] theorem State.receivedLong_firstTransmission (s : State) (buf : Memory) (rest : List ReadDraw) : (s.receivedLong buf rest).firstTransmission = s.firstTransmission := rfl
@[simp] theorem State.receivedLong_initialized (s : State) (buf : Memory) (rest : List ReadDraw) : (s.receivedLong buf rest).initialized = s.initialized := rfl
@[simp] theorem State.receivedLong_nsMaster (s : State) (buf : Memory) (rest : List ReadDraw) : (s.receivedLong buf rest).nsMaster = s.nsMaster := rfl
@[simp] theorem State.receivedLong_nsSlave (s : State) (buf : Memory) (rest : List ReadDraw) : (s.receivedLong buf rest).nsSlave = s.nsSlave := rfl
@[simp] theorem State.receivedLong_recovery (s : State) (buf : Memory) (rest : List ReadDraw) : (s.receivedLong buf rest).recovery = s.recovery := rfl
@[simp] theorem State.receivedLong_ifsd (s : State) (buf : Memory) (rest : List ReadDraw) : (s.receivedLong buf rest).ifsd = s.ifsd := rfl
@[simp] theorem State.receivedLong_atp (s : State) (buf : Memory) (rest : List ReadDraw) : (s.receivedLong buf rest).atp = s.atp := rfl
@[simp] theorem State.receivedLong_nbwt (s : State) (buf : Memory) (rest : List ReadDraw) : (s.receivedLong buf rest).nbwt = s.nbwt := rfl
@[simp] theorem State.receivedLong_txBuf (s : State) (buf : Memory) (rest : List ReadDraw) : (s.receivedLong buf rest).txBuf = s.txBuf := rfl
@[simp] theorem State.receivedLong_rxBuf (s : State) (buf : Memory) (rest : List ReadDraw) : (s.receivedLong buf rest).rxBuf = buf := rfl
@[simp] theorem State.receivedLong_apdu (s : State) (buf : Memory) (rest : List ReadDraw) : (s.receivedLong buf rest).apdu = s.apdu := rfl
@[simp] theorem State.receivedLong_port (s : State) (buf : Memory) (rest : List ReadDraw) : (s.receivedLong buf rest).port = s.port := rfl
@[simp] theorem State.receivedLong_outcome (s : State) (buf : Memory) (rest : List ReadDraw) : (s.receivedLong buf rest).outcome = s.outcome := rfl
@[simp] theorem State.receivedLong_linkWr (s : State) (buf : Memory) (rest : List ReadDraw) : (s.receivedLong buf rest).linkWr = s.linkWr := rfl
@[simp] theorem State.receivedLong_linkRd (s : State) (buf : Memory) (rest : List ReadDraw) : (s.receivedLong buf rest).linkRd = rest := rfl
@[simp] theorem State.receivedLong_events (s : State) (buf : Memory) (rest : List ReadDraw) : (s.receivedLong buf rest).events = s.events := rfl
@[simp] theorem State.receivedLong_free (s : State) (buf : Memory) (rest : List ReadDraw) : (s.receivedLong buf rest).free = s.free + 1 := rfl

/-! ### sum (R15): one accumulator -/

/-- The accumulators are all that a checksum computation writes. -/
theorem State.sum_eq (s : State) (bs : List Byte) :
    s.sum bs = { s with
      crcAcc := if s.atp.checksum = .crc then crcAccOf bs else s.crcAcc
      lrcAcc := if s.atp.checksum = .lrc then lrc bs else s.lrcAcc } := by
  unfold State.sum
  cases h : s.atp.checksum <;> simp

@[simp] theorem State.sum_orig (s : State) (bs : List Byte) : (s.sum bs).orig = s.orig := by rw [State.sum_eq]
@[simp] theorem State.sum_lastTx (s : State) (bs : List Byte) : (s.sum bs).lastTx = s.lastTx := by rw [State.sum_eq]
@[simp] theorem State.sum_lastRx (s : State) (bs : List Byte) : (s.sum bs).lastRx = s.lastRx := by rw [State.sum_eq]
@[simp] theorem State.sum_rxLen (s : State) (bs : List Byte) : (s.sum bs).rxLen = s.rxLen := by rw [State.sum_eq]
@[simp] theorem State.sum_phase (s : State) (bs : List Byte) : (s.sum bs).phase = s.phase := by rw [State.sum_eq]
@[simp] theorem State.sum_resp (s : State) (bs : List Byte) : (s.sum bs).resp = s.resp := by rw [State.sum_eq]
@[simp] theorem State.sum_firstTransmission (s : State) (bs : List Byte) : (s.sum bs).firstTransmission = s.firstTransmission := by rw [State.sum_eq]
@[simp] theorem State.sum_initialized (s : State) (bs : List Byte) : (s.sum bs).initialized = s.initialized := by rw [State.sum_eq]
@[simp] theorem State.sum_nsMaster (s : State) (bs : List Byte) : (s.sum bs).nsMaster = s.nsMaster := by rw [State.sum_eq]
@[simp] theorem State.sum_nsSlave (s : State) (bs : List Byte) : (s.sum bs).nsSlave = s.nsSlave := by rw [State.sum_eq]
@[simp] theorem State.sum_recovery (s : State) (bs : List Byte) : (s.sum bs).recovery = s.recovery := by rw [State.sum_eq]
@[simp] theorem State.sum_ifsd (s : State) (bs : List Byte) : (s.sum bs).ifsd = s.ifsd := by rw [State.sum_eq]
@[simp] theorem State.sum_atp (s : State) (bs : List Byte) : (s.sum bs).atp = s.atp := by rw [State.sum_eq]
@[simp] theorem State.sum_nbwt (s : State) (bs : List Byte) : (s.sum bs).nbwt = s.nbwt := by rw [State.sum_eq]
@[simp] theorem State.sum_txBuf (s : State) (bs : List Byte) : (s.sum bs).txBuf = s.txBuf := by rw [State.sum_eq]
@[simp] theorem State.sum_rxBuf (s : State) (bs : List Byte) : (s.sum bs).rxBuf = s.rxBuf := by rw [State.sum_eq]
@[simp] theorem State.sum_apdu (s : State) (bs : List Byte) : (s.sum bs).apdu = s.apdu := by rw [State.sum_eq]
@[simp] theorem State.sum_port (s : State) (bs : List Byte) : (s.sum bs).port = s.port := by rw [State.sum_eq]
@[simp] theorem State.sum_outcome (s : State) (bs : List Byte) : (s.sum bs).outcome = s.outcome := by rw [State.sum_eq]
@[simp] theorem State.sum_linkWr (s : State) (bs : List Byte) : (s.sum bs).linkWr = s.linkWr := by rw [State.sum_eq]
@[simp] theorem State.sum_linkRd (s : State) (bs : List Byte) : (s.sum bs).linkRd = s.linkRd := by rw [State.sum_eq]
@[simp] theorem State.sum_events (s : State) (bs : List Byte) : (s.sum bs).events = s.events := by rw [State.sum_eq]
@[simp] theorem State.sum_free (s : State) (bs : List Byte) : (s.sum bs).free = s.free := by rw [State.sum_eq]

/-! ### sumReceived: the accumulators and, for LEN = 255, the free counter -/

@[simp] theorem State.sumReceived_orig (s : State) : s.sumReceived.orig = s.orig := by
  unfold State.sumReceived; split <;> simp
@[simp] theorem State.sumReceived_lastTx (s : State) : s.sumReceived.lastTx = s.lastTx := by
  unfold State.sumReceived; split <;> simp
@[simp] theorem State.sumReceived_lastRx (s : State) : s.sumReceived.lastRx = s.lastRx := by
  unfold State.sumReceived; split <;> simp
@[simp] theorem State.sumReceived_rxLen (s : State) : s.sumReceived.rxLen = s.rxLen := by
  unfold State.sumReceived; split <;> simp
@[simp] theorem State.sumReceived_phase (s : State) : s.sumReceived.phase = s.phase := by
  unfold State.sumReceived; split <;> simp
@[simp] theorem State.sumReceived_resp (s : State) : s.sumReceived.resp = s.resp := by
  unfold State.sumReceived; split <;> simp
@[simp] theorem State.sumReceived_firstTransmission (s : State) : s.sumReceived.firstTransmission = s.firstTransmission := by
  unfold State.sumReceived; split <;> simp
@[simp] theorem State.sumReceived_initialized (s : State) : s.sumReceived.initialized = s.initialized := by
  unfold State.sumReceived; split <;> simp
@[simp] theorem State.sumReceived_nsMaster (s : State) : s.sumReceived.nsMaster = s.nsMaster := by
  unfold State.sumReceived; split <;> simp
@[simp] theorem State.sumReceived_nsSlave (s : State) : s.sumReceived.nsSlave = s.nsSlave := by
  unfold State.sumReceived; split <;> simp
@[simp] theorem State.sumReceived_recovery (s : State) : s.sumReceived.recovery = s.recovery := by
  unfold State.sumReceived; split <;> simp
@[simp] theorem State.sumReceived_ifsd (s : State) : s.sumReceived.ifsd = s.ifsd := by
  unfold State.sumReceived; split <;> simp
@[simp] theorem State.sumReceived_atp (s : State) : s.sumReceived.atp = s.atp := by
  unfold State.sumReceived; split <;> simp
@[simp] theorem State.sumReceived_nbwt (s : State) : s.sumReceived.nbwt = s.nbwt := by
  unfold State.sumReceived; split <;> simp
@[simp] theorem State.sumReceived_txBuf (s : State) : s.sumReceived.txBuf = s.txBuf := by
  unfold State.sumReceived; split <;> simp
@[simp] theorem State.sumReceived_rxBuf (s : State) : s.sumReceived.rxBuf = s.rxBuf := by
  unfold State.sumReceived; split <;> simp
@[simp] theorem State.sumReceived_apdu (s : State) : s.sumReceived.apdu = s.apdu := by
  unfold State.sumReceived; split <;> simp
@[simp] theorem State.sumReceived_port (s : State) : s.sumReceived.port = s.port := by
  unfold State.sumReceived; split <;> simp
@[simp] theorem State.sumReceived_outcome (s : State) : s.sumReceived.outcome = s.outcome := by
  unfold State.sumReceived; split <;> simp
@[simp] theorem State.sumReceived_linkWr (s : State) : s.sumReceived.linkWr = s.linkWr := by
  unfold State.sumReceived; split <;> simp
@[simp] theorem State.sumReceived_linkRd (s : State) : s.sumReceived.linkRd = s.linkRd := by
  unfold State.sumReceived; split <;> simp
@[simp] theorem State.sumReceived_events (s : State) : s.sumReceived.events = s.events := by
  unfold State.sumReceived; split <;> simp

/-! ### endOp (R187): the phase, and the outcome to the host or to the XFER_APDU -/

/-- Ending an operation in one equation. -/
theorem State.endOp_eq (s : State) (o : OpOutcome) :
    s.endOp o = { s with
      phase := .idle
      outcome := if s.apdu.isNone then some o else s.outcome
      apdu := s.apdu.map fun x => { x with part := some o } } := by
  unfold State.endOp
  cases h : s.apdu <;> simp

@[simp] theorem State.endOp_orig (s : State) (o : OpOutcome) : (s.endOp o).orig = s.orig := by rw [State.endOp_eq]
@[simp] theorem State.endOp_lastTx (s : State) (o : OpOutcome) : (s.endOp o).lastTx = s.lastTx := by rw [State.endOp_eq]
@[simp] theorem State.endOp_lastRx (s : State) (o : OpOutcome) : (s.endOp o).lastRx = s.lastRx := by rw [State.endOp_eq]
@[simp] theorem State.endOp_rxLen (s : State) (o : OpOutcome) : (s.endOp o).rxLen = s.rxLen := by rw [State.endOp_eq]
@[simp] theorem State.endOp_crcAcc (s : State) (o : OpOutcome) : (s.endOp o).crcAcc = s.crcAcc := by rw [State.endOp_eq]
@[simp] theorem State.endOp_lrcAcc (s : State) (o : OpOutcome) : (s.endOp o).lrcAcc = s.lrcAcc := by rw [State.endOp_eq]
@[simp] theorem State.endOp_phase (s : State) (o : OpOutcome) : (s.endOp o).phase = .idle := by rw [State.endOp_eq]
@[simp] theorem State.endOp_resp (s : State) (o : OpOutcome) : (s.endOp o).resp = s.resp := by rw [State.endOp_eq]
@[simp] theorem State.endOp_firstTransmission (s : State) (o : OpOutcome) : (s.endOp o).firstTransmission = s.firstTransmission := by rw [State.endOp_eq]
@[simp] theorem State.endOp_initialized (s : State) (o : OpOutcome) : (s.endOp o).initialized = s.initialized := by rw [State.endOp_eq]
@[simp] theorem State.endOp_nsMaster (s : State) (o : OpOutcome) : (s.endOp o).nsMaster = s.nsMaster := by rw [State.endOp_eq]
@[simp] theorem State.endOp_nsSlave (s : State) (o : OpOutcome) : (s.endOp o).nsSlave = s.nsSlave := by rw [State.endOp_eq]
@[simp] theorem State.endOp_recovery (s : State) (o : OpOutcome) : (s.endOp o).recovery = s.recovery := by rw [State.endOp_eq]
@[simp] theorem State.endOp_ifsd (s : State) (o : OpOutcome) : (s.endOp o).ifsd = s.ifsd := by rw [State.endOp_eq]
@[simp] theorem State.endOp_atp (s : State) (o : OpOutcome) : (s.endOp o).atp = s.atp := by rw [State.endOp_eq]
@[simp] theorem State.endOp_nbwt (s : State) (o : OpOutcome) : (s.endOp o).nbwt = s.nbwt := by rw [State.endOp_eq]
@[simp] theorem State.endOp_txBuf (s : State) (o : OpOutcome) : (s.endOp o).txBuf = s.txBuf := by rw [State.endOp_eq]
@[simp] theorem State.endOp_rxBuf (s : State) (o : OpOutcome) : (s.endOp o).rxBuf = s.rxBuf := by rw [State.endOp_eq]
@[simp] theorem State.endOp_apdu (s : State) (o : OpOutcome) : (s.endOp o).apdu = s.apdu.map fun x => { x with part := some o } := by rw [State.endOp_eq]
@[simp] theorem State.endOp_port (s : State) (o : OpOutcome) : (s.endOp o).port = s.port := by rw [State.endOp_eq]
@[simp] theorem State.endOp_outcome (s : State) (o : OpOutcome) : (s.endOp o).outcome = (if s.apdu.isNone then some o else s.outcome) := by rw [State.endOp_eq]
@[simp] theorem State.endOp_linkWr (s : State) (o : OpOutcome) : (s.endOp o).linkWr = s.linkWr := by rw [State.endOp_eq]
@[simp] theorem State.endOp_linkRd (s : State) (o : OpOutcome) : (s.endOp o).linkRd = s.linkRd := by rw [State.endOp_eq]
@[simp] theorem State.endOp_events (s : State) (o : OpOutcome) : (s.endOp o).events = s.events := by rw [State.endOp_eq]
@[simp] theorem State.endOp_free (s : State) (o : OpOutcome) : (s.endOp o).free = s.free := by rw [State.endOp_eq]

/-! ### raise (R187) -/

@[simp] theorem State.raise_orig (s : State) (k : ErrKind) : (s.raise k).orig = s.orig := by simp [State.raise]
@[simp] theorem State.raise_lastTx (s : State) (k : ErrKind) : (s.raise k).lastTx = s.lastTx := by simp [State.raise]
@[simp] theorem State.raise_lastRx (s : State) (k : ErrKind) : (s.raise k).lastRx = s.lastRx := by simp [State.raise]
@[simp] theorem State.raise_rxLen (s : State) (k : ErrKind) : (s.raise k).rxLen = s.rxLen := by simp [State.raise]
@[simp] theorem State.raise_crcAcc (s : State) (k : ErrKind) : (s.raise k).crcAcc = s.crcAcc := by simp [State.raise]
@[simp] theorem State.raise_lrcAcc (s : State) (k : ErrKind) : (s.raise k).lrcAcc = s.lrcAcc := by simp [State.raise]
@[simp] theorem State.raise_phase (s : State) (k : ErrKind) : (s.raise k).phase = .idle := by simp [State.raise]
@[simp] theorem State.raise_resp (s : State) (k : ErrKind) : (s.raise k).resp = Config.freeBytes s.free := by simp [State.raise]
@[simp] theorem State.raise_firstTransmission (s : State) (k : ErrKind) : (s.raise k).firstTransmission = s.firstTransmission := by simp [State.raise]
@[simp] theorem State.raise_initialized (s : State) (k : ErrKind) : (s.raise k).initialized = s.initialized := by simp [State.raise]
@[simp] theorem State.raise_nsMaster (s : State) (k : ErrKind) : (s.raise k).nsMaster = s.nsMaster := by simp [State.raise]
@[simp] theorem State.raise_nsSlave (s : State) (k : ErrKind) : (s.raise k).nsSlave = s.nsSlave := by simp [State.raise]
@[simp] theorem State.raise_recovery (s : State) (k : ErrKind) : (s.raise k).recovery = s.recovery := by simp [State.raise]
@[simp] theorem State.raise_ifsd (s : State) (k : ErrKind) : (s.raise k).ifsd = s.ifsd := by simp [State.raise]
@[simp] theorem State.raise_atp (s : State) (k : ErrKind) : (s.raise k).atp = s.atp := by simp [State.raise]
@[simp] theorem State.raise_nbwt (s : State) (k : ErrKind) : (s.raise k).nbwt = s.nbwt := by simp [State.raise]
@[simp] theorem State.raise_txBuf (s : State) (k : ErrKind) : (s.raise k).txBuf = s.txBuf := by simp [State.raise]
@[simp] theorem State.raise_rxBuf (s : State) (k : ErrKind) : (s.raise k).rxBuf = s.rxBuf := by simp [State.raise]
@[simp] theorem State.raise_apdu (s : State) (k : ErrKind) : (s.raise k).apdu = s.apdu.map fun x => { x with part := some (.err k) } := by simp [State.raise]
@[simp] theorem State.raise_port (s : State) (k : ErrKind) : (s.raise k).port = s.port := by simp [State.raise]
@[simp] theorem State.raise_outcome (s : State) (k : ErrKind) : (s.raise k).outcome = (if s.apdu.isNone then some (.err k) else s.outcome) := by simp [State.raise]
@[simp] theorem State.raise_linkWr (s : State) (k : ErrKind) : (s.raise k).linkWr = s.linkWr := by simp [State.raise]
@[simp] theorem State.raise_linkRd (s : State) (k : ErrKind) : (s.raise k).linkRd = s.linkRd := by simp [State.raise]
@[simp] theorem State.raise_events (s : State) (k : ErrKind) : (s.raise k).events = s.events := by simp [State.raise]
@[simp] theorem State.raise_free (s : State) (k : ErrKind) : (s.raise k).free = s.free + 1 := by simp [State.raise]

/-! ### framed (R110): TXBUF and one accumulator; readFailed (R165) -/

@[simp] theorem State.framed_orig (s : State) (buf : Memory) : (s.framed buf).orig = s.orig := by simp [State.framed]
@[simp] theorem State.framed_lastTx (s : State) (buf : Memory) : (s.framed buf).lastTx = s.lastTx := by simp [State.framed]
@[simp] theorem State.framed_lastRx (s : State) (buf : Memory) : (s.framed buf).lastRx = s.lastRx := by simp [State.framed]
@[simp] theorem State.framed_rxLen (s : State) (buf : Memory) : (s.framed buf).rxLen = s.rxLen := by simp [State.framed]
@[simp] theorem State.framed_phase (s : State) (buf : Memory) : (s.framed buf).phase = s.phase := by simp [State.framed]
@[simp] theorem State.framed_resp (s : State) (buf : Memory) : (s.framed buf).resp = s.resp := by simp [State.framed]
@[simp] theorem State.framed_firstTransmission (s : State) (buf : Memory) : (s.framed buf).firstTransmission = s.firstTransmission := by simp [State.framed]
@[simp] theorem State.framed_initialized (s : State) (buf : Memory) : (s.framed buf).initialized = s.initialized := by simp [State.framed]
@[simp] theorem State.framed_nsMaster (s : State) (buf : Memory) : (s.framed buf).nsMaster = s.nsMaster := by simp [State.framed]
@[simp] theorem State.framed_nsSlave (s : State) (buf : Memory) : (s.framed buf).nsSlave = s.nsSlave := by simp [State.framed]
@[simp] theorem State.framed_recovery (s : State) (buf : Memory) : (s.framed buf).recovery = s.recovery := by simp [State.framed]
@[simp] theorem State.framed_ifsd (s : State) (buf : Memory) : (s.framed buf).ifsd = s.ifsd := by simp [State.framed]
@[simp] theorem State.framed_atp (s : State) (buf : Memory) : (s.framed buf).atp = s.atp := by simp [State.framed]
@[simp] theorem State.framed_nbwt (s : State) (buf : Memory) : (s.framed buf).nbwt = s.nbwt := by simp [State.framed]
@[simp] theorem State.framed_txBuf (s : State) (buf : Memory) : (s.framed buf).txBuf = buf := by simp [State.framed]
@[simp] theorem State.framed_rxBuf (s : State) (buf : Memory) : (s.framed buf).rxBuf = s.rxBuf := by simp [State.framed]
@[simp] theorem State.framed_apdu (s : State) (buf : Memory) : (s.framed buf).apdu = s.apdu := by simp [State.framed]
@[simp] theorem State.framed_port (s : State) (buf : Memory) : (s.framed buf).port = s.port := by simp [State.framed]
@[simp] theorem State.framed_outcome (s : State) (buf : Memory) : (s.framed buf).outcome = s.outcome := by simp [State.framed]
@[simp] theorem State.framed_linkWr (s : State) (buf : Memory) : (s.framed buf).linkWr = s.linkWr := by simp [State.framed]
@[simp] theorem State.framed_linkRd (s : State) (buf : Memory) : (s.framed buf).linkRd = s.linkRd := by simp [State.framed]
@[simp] theorem State.framed_events (s : State) (buf : Memory) : (s.framed buf).events = s.events := by simp [State.framed]
@[simp] theorem State.framed_free (s : State) (buf : Memory) : (s.framed buf).free = s.free := by simp [State.framed]

@[simp] theorem State.readFailed_orig (s : State) (buf : Memory) (rest : List ReadDraw) : (s.readFailed buf rest).orig = s.orig := by simp [State.readFailed]
@[simp] theorem State.readFailed_lastTx (s : State) (buf : Memory) (rest : List ReadDraw) : (s.readFailed buf rest).lastTx = s.lastTx := by simp [State.readFailed]
@[simp] theorem State.readFailed_lastRx (s : State) (buf : Memory) (rest : List ReadDraw) : (s.readFailed buf rest).lastRx = s.lastRx := by simp [State.readFailed]
@[simp] theorem State.readFailed_rxLen (s : State) (buf : Memory) (rest : List ReadDraw) : (s.readFailed buf rest).rxLen = s.rxLen := by simp [State.readFailed]
@[simp] theorem State.readFailed_crcAcc (s : State) (buf : Memory) (rest : List ReadDraw) : (s.readFailed buf rest).crcAcc = s.crcAcc := by simp [State.readFailed]
@[simp] theorem State.readFailed_lrcAcc (s : State) (buf : Memory) (rest : List ReadDraw) : (s.readFailed buf rest).lrcAcc = s.lrcAcc := by simp [State.readFailed]
@[simp] theorem State.readFailed_phase (s : State) (buf : Memory) (rest : List ReadDraw) : (s.readFailed buf rest).phase = .idle := by simp [State.readFailed]
@[simp] theorem State.readFailed_resp (s : State) (buf : Memory) (rest : List ReadDraw) : (s.readFailed buf rest).resp = Config.freeBytes s.free := by simp [State.readFailed]
@[simp] theorem State.readFailed_firstTransmission (s : State) (buf : Memory) (rest : List ReadDraw) : (s.readFailed buf rest).firstTransmission = s.firstTransmission := by simp [State.readFailed]
@[simp] theorem State.readFailed_initialized (s : State) (buf : Memory) (rest : List ReadDraw) : (s.readFailed buf rest).initialized = s.initialized := by simp [State.readFailed]
@[simp] theorem State.readFailed_nsMaster (s : State) (buf : Memory) (rest : List ReadDraw) : (s.readFailed buf rest).nsMaster = s.nsMaster := by simp [State.readFailed]
@[simp] theorem State.readFailed_nsSlave (s : State) (buf : Memory) (rest : List ReadDraw) : (s.readFailed buf rest).nsSlave = s.nsSlave := by simp [State.readFailed]
@[simp] theorem State.readFailed_recovery (s : State) (buf : Memory) (rest : List ReadDraw) : (s.readFailed buf rest).recovery = s.recovery := by simp [State.readFailed]
@[simp] theorem State.readFailed_ifsd (s : State) (buf : Memory) (rest : List ReadDraw) : (s.readFailed buf rest).ifsd = s.ifsd := by simp [State.readFailed]
@[simp] theorem State.readFailed_atp (s : State) (buf : Memory) (rest : List ReadDraw) : (s.readFailed buf rest).atp = s.atp := by simp [State.readFailed]
@[simp] theorem State.readFailed_nbwt (s : State) (buf : Memory) (rest : List ReadDraw) : (s.readFailed buf rest).nbwt = s.nbwt := by simp [State.readFailed]
@[simp] theorem State.readFailed_txBuf (s : State) (buf : Memory) (rest : List ReadDraw) : (s.readFailed buf rest).txBuf = s.txBuf := by simp [State.readFailed]
@[simp] theorem State.readFailed_rxBuf (s : State) (buf : Memory) (rest : List ReadDraw) : (s.readFailed buf rest).rxBuf = buf := by simp [State.readFailed]
@[simp] theorem State.readFailed_apdu (s : State) (buf : Memory) (rest : List ReadDraw) : (s.readFailed buf rest).apdu = s.apdu.map fun x => { x with part := some (.err .io) } := by simp [State.readFailed]
@[simp] theorem State.readFailed_port (s : State) (buf : Memory) (rest : List ReadDraw) : (s.readFailed buf rest).port = s.port := by simp [State.readFailed]
@[simp] theorem State.readFailed_outcome (s : State) (buf : Memory) (rest : List ReadDraw) : (s.readFailed buf rest).outcome = (if s.apdu.isNone then some (.err .io) else s.outcome) := by simp [State.readFailed]
@[simp] theorem State.readFailed_linkWr (s : State) (buf : Memory) (rest : List ReadDraw) : (s.readFailed buf rest).linkWr = s.linkWr := by simp [State.readFailed]
@[simp] theorem State.readFailed_linkRd (s : State) (buf : Memory) (rest : List ReadDraw) : (s.readFailed buf rest).linkRd = rest := by simp [State.readFailed]
@[simp] theorem State.readFailed_events (s : State) (buf : Memory) (rest : List ReadDraw) : (s.readFailed buf rest).events = s.events := by simp [State.readFailed]
@[simp] theorem State.readFailed_free (s : State) (buf : Memory) (rest : List ReadDraw) : (s.readFailed buf rest).free = s.free + 1 := by simp [State.readFailed]

end Sys2Proof.Machine
end

