-- ==== Sys2Proof/Laws/Memory.lean ====
section
/-! SUPPORT. The buffers (R40): reading after writing, and every memory operation keeps the canonical form. -/

namespace Sys2Proof.Machine

theorem Memory.wfFrom_mono {lo lo' : Nat} {m : Memory} (h : lo' ≤ lo) (hw : m.wfFrom lo = true) :
    m.wfFrom lo' = true := by
  cases m with
  | nil => rfl
  | cons kv m =>
    obtain ⟨k, v⟩ := kv
    simp only [Memory.wfFrom, Bool.and_eq_true, decide_eq_true_eq, bne_iff_ne] at hw ⊢
    exact ⟨⟨⟨by omega, hw.1.1.2⟩, hw.1.2⟩, hw.2⟩

/-- An offset below the form's start is not listed. -/
theorem Memory.read_of_lt {lo a : Nat} {m : Memory} (hw : m.wfFrom lo = true) (h : a < lo) :
    m.read a = unlistedByte := by
  induction m generalizing lo with
  | nil => rfl
  | cons kv m ih =>
    obtain ⟨k, v⟩ := kv
    simp only [Memory.wfFrom, Bool.and_eq_true, decide_eq_true_eq] at hw
    have hk : a ≠ k := by omega
    simp only [Memory.read, hk, if_false]
    exact ih hw.2 (by omega)

/-- Reading one byte after writing one byte. -/
theorem Memory.read_write_from {lo : Nat} {m : Memory} (hw : m.wfFrom lo = true) (a a' : Nat) (b : Byte) :
    (m.write a b).read a' = if a' = a then b else m.read a' := by
  induction m generalizing lo with
  | nil =>
    unfold Memory.write
    split
    · rename_i h; subst h; simp [Memory.read]
    · simp [Memory.read]
  | cons kv m ih =>
    obtain ⟨k, v⟩ := kv
    have hw' := hw
    simp only [Memory.wfFrom, Bool.and_eq_true, decide_eq_true_eq] at hw
    unfold Memory.write
    split
    · rename_i hak
      split
      · rename_i hb
        subst hb
        split
        · rename_i h
          subst h
          have : a' ≠ k := by omega
          simp only [Memory.read, this, if_false]
          exact Memory.read_of_lt hw.2 (by omega)
        · rfl
      · simp [Memory.read]
    · split
      · rename_i _ hak
        subst hak
        split
        · rename_i hb
          subst hb
          split
          · rename_i h
            subst h
            exact Memory.read_of_lt hw.2 (by omega)
          · rename_i h
            simp [Memory.read, h]
        · by_cases h : a' = a <;> simp [Memory.read, h]
      · rename_i h1 h2
        simp only [Memory.read]
        by_cases h : a' = k
        · have : a' ≠ a := fun e => h2 (e ▸ h)
          simp [h] at this ⊢
          intro e; exact absurd e.symm h2
        · simp only [h, if_false]
          exact ih hw.2

theorem Memory.read_write {m : Memory} (hw : m.wf = true) (a a' : Nat) (b : Byte) :
    (m.write a b).read a' = if a' = a then b else m.read a' :=
  Memory.read_write_from hw a a' b

theorem Memory.write_wfFrom {lo a : Nat} {m : Memory} {b : Byte} (hw : m.wfFrom lo = true) (hlo : lo ≤ a)
    (ha : a < tpduMax) : (m.write a b).wfFrom lo = true := by
  induction m generalizing lo with
  | nil =>
    unfold Memory.write
    split
    · rfl
    · rename_i hb
      simp [Memory.wfFrom, hlo, ha, hb]
  | cons kv m ih =>
    obtain ⟨k, v⟩ := kv
    simp only [Memory.wfFrom, Bool.and_eq_true, decide_eq_true_eq, bne_iff_ne] at hw
    obtain ⟨⟨⟨h1, h2⟩, h3⟩, h4⟩ := hw
    unfold Memory.write
    split
    · rename_i hak
      split
      · simp [Memory.wfFrom, h1, h2, h3, h4]
      · rename_i hb
        simp [Memory.wfFrom, hlo, ha, hb, h2, h3, h4]; omega
    · split
      · rename_i _ hak
        subst hak
        split
        · exact Memory.wfFrom_mono (by omega) h4
        · rename_i hb
          simp [Memory.wfFrom, hlo, ha, hb, h4]
      · simp only [Memory.wfFrom, Bool.and_eq_true, decide_eq_true_eq, bne_iff_ne]
        exact ⟨⟨⟨h1, h2⟩, h3⟩, ih h4 (by omega)⟩

/-- One store keeps the canonical form. -/
theorem Memory.write_wf {a : Nat} {m : Memory} {b : Byte} (hw : m.wf = true) (ha : a < tpduMax) :
    (m.write a b).wf = true :=
  Memory.write_wfFrom hw (Nat.zero_le a) ha

theorem Memory.writeList_wf {off : Nat} {m : Memory} {bs : List Byte} (hw : m.wf = true)
    (h : off + bs.length ≤ tpduMax) : (m.writeList off bs).wf = true := by
  induction bs generalizing off m with
  | nil => exact hw
  | cons b bs ih =>
    simp only [List.length_cons] at h
    exact ih (Memory.write_wf hw (by omega)) (by omega)

/-- `MemWrite` in one line: it stores the bytes, or it faults outside the buffer. -/
theorem memWrite_ok {m m' : Memory} {off : Nat} {bs : List Byte} (h : memWrite m off bs = .ok m') :
    m' = m.writeList off bs ∧ off + bs.length ≤ tpduMax := by
  unfold memWrite at h
  split at h
  · rename_i hr; cases h; exact ⟨rfl, hr⟩
  · cases h

theorem memWrite_in_range {m : Memory} {off : Nat} {bs : List Byte} (h : off + bs.length ≤ tpduMax) :
    memWrite m off bs = .ok (m.writeList off bs) := by simp [memWrite, h]

theorem memRead_in_range {m : Memory} {off n : Nat} (h : off + n ≤ tpduMax) :
    memRead m off n = .ok (m.bytes off n) := by simp [memRead, h]

/-- `MemWrite` keeps the canonical form. -/
theorem memWrite_wf {m m' : Memory} {off : Nat} {bs : List Byte} (hw : m.wf = true)
    (h : memWrite m off bs = .ok m') : m'.wf = true := by
  obtain ⟨rfl, hr⟩ := memWrite_ok h
  exact Memory.writeList_wf hw hr

/-- Reading one byte after storing a list. -/
theorem Memory.read_writeList {off : Nat} {m : Memory} {bs : List Byte} (hw : m.wf = true)
    (h : off + bs.length ≤ tpduMax) (a : Nat) :
    (m.writeList off bs).read a = if off ≤ a ∧ a < off + bs.length then bs.getD (a - off) 0#8 else m.read a := by
  induction bs generalizing off m with
  | nil =>
    have : ¬ (off ≤ a ∧ a < off + 0) := by omega
    simp only [Memory.writeList, List.length_nil, this, if_false]
  | cons b bs ih =>
    simp only [List.length_cons] at h ⊢
    simp only [Memory.writeList]
    rw [ih (Memory.write_wf hw (by omega)) (by omega), Memory.read_write hw]
    by_cases h1 : a = off
    · subst h1
      simp
    · by_cases h2 : off ≤ a ∧ a < off + (bs.length + 1)
      · have h3 : off + 1 ≤ a ∧ a < off + 1 + bs.length := by omega
        have h4 : a - off = (a - (off + 1)) + 1 := by omega
        simp [h2, h3, h4]
      · have h3 : ¬ (off + 1 ≤ a ∧ a < off + 1 + bs.length) := by omega
        rw [if_neg h3, if_neg h1, if_neg h2]

/-- A store leaves every byte outside it alone. -/
theorem Memory.read_writeList_of_lt {off a : Nat} {m : Memory} {bs : List Byte} (hw : m.wf = true)
    (h : off + bs.length ≤ tpduMax) (ha : a < off) : (m.writeList off bs).read a = m.read a := by
  rw [Memory.read_writeList hw h]
  have : ¬ (off ≤ a ∧ a < off + bs.length) := by omega
  simp [this]

@[simp] theorem Memory.bytes_length (m : Memory) (off n : Nat) : (m.bytes off n).length = n := by
  induction n generalizing off with
  | zero => rfl
  | succ n ih => simp [Memory.bytes, ih]

theorem Memory.bytes_add (m : Memory) (off n k : Nat) :
    m.bytes off (n + k) = m.bytes off n ++ m.bytes (off + n) k := by
  induction n generalizing off with
  | zero => simp [Memory.bytes]
  | succ n ih =>
    have h : n + 1 + k = (n + k) + 1 := by omega
    rw [h]
    simp only [Memory.bytes, ih, List.cons_append]
    congr 3
    omega

/-- Two memories that read alike on a range give the same bytes there. -/
theorem Memory.bytes_congr {m m' : Memory} {off n : Nat}
    (h : ∀ a, off ≤ a → a < off + n → m.read a = m'.read a) : m.bytes off n = m'.bytes off n := by
  induction n generalizing off with
  | zero => rfl
  | succ n ih =>
    simp only [Memory.bytes]
    rw [h off (by omega) (by omega), ih (fun a h1 h2 => h a (by omega) (by omega))]

/-- The bytes stored read back. -/
theorem Memory.bytes_writeList_self {off : Nat} {m : Memory} {bs : List Byte} (hw : m.wf = true)
    (h : off + bs.length ≤ tpduMax) : (m.writeList off bs).bytes off bs.length = bs := by
  induction bs generalizing off m with
  | nil => rfl
  | cons b bs ih =>
    simp only [List.length_cons] at h ⊢
    simp only [Memory.writeList, Memory.bytes]
    have hw' := Memory.write_wf (b := b) hw (show off < tpduMax by omega)
    rw [ih hw' (by omega), Memory.read_writeList hw' (by omega)]
    have : ¬ (off + 1 ≤ off ∧ off < off + 1 + bs.length) := by omega
    simp [Memory.read_write hw]

/-- A store above a range leaves its bytes alone. -/
theorem Memory.bytes_writeList_of_le {off lo n : Nat} {m : Memory} {bs : List Byte} (hw : m.wf = true)
    (h : off + bs.length ≤ tpduMax) (hlo : lo + n ≤ off) : (m.writeList off bs).bytes lo n = m.bytes lo n :=
  Memory.bytes_congr fun a _ h2 => Memory.read_writeList_of_lt hw h (by omega)

/-- Stores one after the other are one store. -/
theorem Memory.writeList_append (m : Memory) (off : Nat) (bs cs : List Byte) :
    (m.writeList off bs).writeList (off + bs.length) cs = m.writeList off (bs ++ cs) := by
  induction bs generalizing off m with
  | nil => rfl
  | cons b bs ih =>
    simp only [Memory.writeList, List.cons_append, List.length_cons]
    rw [← ih]
    congr 1
    omega

theorem Memory.eq_of_read_from {lo : Nat} {m m' : Memory} (h : m.wfFrom lo = true) (h' : m'.wfFrom lo = true)
    (hr : ∀ a, m.read a = m'.read a) : m = m' := by
  induction m generalizing lo m' with
  | nil =>
    cases m' with
    | nil => rfl
    | cons kv m' =>
      obtain ⟨k, v⟩ := kv
      simp only [Memory.wfFrom, Bool.and_eq_true, decide_eq_true_eq, bne_iff_ne] at h'
      have := hr k
      simp [Memory.read] at this
      exact absurd this.symm h'.1.2
  | cons kv m ih =>
    obtain ⟨k, v⟩ := kv
    have hw := h
    simp only [Memory.wfFrom, Bool.and_eq_true, decide_eq_true_eq, bne_iff_ne] at h
    cases m' with
    | nil =>
      have := hr k
      simp [Memory.read] at this
      exact absurd this h.1.2
    | cons kv' m' =>
      obtain ⟨k', v'⟩ := kv'
      have hw' := h'
      simp only [Memory.wfFrom, Bool.and_eq_true, decide_eq_true_eq, bne_iff_ne] at h'
      rcases Nat.lt_trichotomy k k' with hk | hk | hk
      · have h1 := hr k
        have hne : k ≠ k' := by omega
        simp only [Memory.read, if_true, hne, if_false] at h1
        rw [Memory.read_of_lt h'.2 (by omega)] at h1
        exact absurd h1 h.1.2
      · subst hk
        have h1 := hr k
        simp [Memory.read] at h1
        subst h1
        congr 1
        refine ih h.2 h'.2 fun a => ?_
        have h2 := hr a
        by_cases ha : a = k
        · subst ha
          rw [Memory.read_of_lt h.2 (by omega), Memory.read_of_lt h'.2 (by omega)]
        · simpa [Memory.read, ha] using h2
      · have h1 := hr k'
        have hne : k' ≠ k := by omega
        simp only [Memory.read, if_true, hne, if_false] at h1
        rw [Memory.read_of_lt h.2 (by omega)] at h1
        exact absurd h1.symm h'.1.2

/-- In canonical form, memories that read alike are equal data. -/
theorem Memory.eq_of_read {m m' : Memory} (h : m.wf = true) (h' : m'.wf = true) (hr : ∀ a, m.read a = m'.read a) :
    m = m' :=
  Memory.eq_of_read_from h h' hr

theorem reset_buffers_wf : State.reset.txBuf.wf = true ∧ State.reset.rxBuf.wf = true := ⟨rfl, rfl⟩

end Sys2Proof.Machine
end

