-- ==== Sys2Proof/Laws/Ops.lean ====
section
/-! SUPPORT. One lemma per shared operation that says once everything it can do: FORM_TPDU and the two senders, the
exchange, the ends of an operation, the entry into recovery, the wrapper's fragment. -/

namespace Sys2Proof.Machine

open Sys2Proof.Safety

/-! ### FORM_TPDU and the senders -/

theorem formTpdu_ok {nad pcb len : Byte} {data : List Byte} (s : State) (h : len ≠ 255#8)
    (hd : data.length = len.toNat) :
    formTpdu nad pcb len data s =
      .ok (sealTpdu s.atp.checksum nad pcb len data, s.sum (nad :: pcb :: len :: data)) := by
  simp [formTpdu, h, hd]

/-- FORM_TPDU answers a block only under its precondition. -/
theorem formTpdu_eq_ok {nad pcb len : Byte} {data : List Byte} {s s' : State} {t : Tpdu}
    (h : formTpdu nad pcb len data s = .ok (t, s')) :
    len ≠ 255#8 ∧ data.length = len.toNat ∧ t = sealTpdu s.atp.checksum nad pcb len data ∧
      s' = s.sum (nad :: pcb :: len :: data) := by
  unfold formTpdu at h
  split at h
  · cases h
  · rename_i hc
    push Not at hc
    cases h
    exact ⟨hc.1, hc.2, rfl, rfl⟩

theorem sum_exchange_built (s : State) (pcb : Byte) (data : List Byte) :
    (s.sum (0x00#8 :: pcb :: BitVec.ofNat 8 data.length :: data)).exchange (built s.atp.checksum pcb data) =
      sending s pcb data := by
  rw [State.sum_eq]; rfl

/-- A block the engine builds with at most 254 data bytes is sent. -/
theorem sendBlock_eq {pcb len : Byte} {data : List Byte} (s : State) (h : data.length ≤ 254)
    (hl : len = BitVec.ofNat 8 data.length) : sendBlock pcb len data s = .next (sending s pcb data) := by
  have h1 : len.toNat = data.length := by subst hl; simp; omega
  have h2 : len ≠ 255#8 := fun e => by rw [e] at h1; simp at h1; omega
  unfold sendBlock
  rw [formTpdu_ok s h2 h1.symm]
  subst hl
  exact congrArg Host.Outcome.next (sum_exchange_built s pcb data)

/-- A sender answers a next state only with the block under way. -/
theorem sendBlock_next {pcb len : Byte} {data : List Byte} {s t : State} (h : sendBlock pcb len data s = .next t) :
    len ≠ 255#8 ∧ data.length = len.toNat ∧
      t = (s.sum (nadHostToSe :: pcb :: len :: data)).exchange (sealTpdu s.atp.checksum nadHostToSe pcb len data) := by
  unfold sendBlock at h
  split at h
  · cases h
  · rename_i hf
    obtain ⟨h1, h2, rfl, rfl⟩ := formTpdu_eq_ok hf
    cases h
    exact ⟨h1, h2, rfl⟩

theorem sendOrig_ok {nad pcb len : Byte} {data : List Byte} (s : State) (h : len ≠ 255#8)
    (hd : data.length = len.toNat) :
    sendOrig nad pcb len data s =
      .next ({ s.sum (nad :: pcb :: len :: data) with orig := sealTpdu s.atp.checksum nad pcb len data }.exchange
        (sealTpdu s.atp.checksum nad pcb len data)) := by
  unfold sendOrig
  rw [formTpdu_ok s h hd]

theorem sendOrig_next {nad pcb len : Byte} {data : List Byte} {s t : State}
    (h : sendOrig nad pcb len data s = .next t) :
    len ≠ 255#8 ∧ data.length = len.toNat ∧
      t = { s.sum (nad :: pcb :: len :: data) with orig := sealTpdu s.atp.checksum nad pcb len data }.exchange
        (sealTpdu s.atp.checksum nad pcb len data) := by
  unfold sendOrig at h
  split at h
  · cases h
  · rename_i hf
    obtain ⟨h1, h2, rfl, rfl⟩ := formTpdu_eq_ok hf
    cases h
    exact ⟨h1, h2, rfl⟩

/-- A new `orig` of at most 254 data bytes is sent. -/
theorem sendOrig_eq {pcb len : Byte} {data : List Byte} (s : State) (h : data.length ≤ 254)
    (hl : len = BitVec.ofNat 8 data.length) :
    sendOrig nadHostToSe pcb len data s = .next { sending s pcb data with orig := built s.atp.checksum pcb data } := by
  have h1 : len.toNat = data.length := by subst hl; simp; omega
  have h2 : len ≠ 255#8 := fun e => by rw [e] at h1; simp at h1; omega
  rw [sendOrig_ok s h2 h1.symm]
  subst hl
  rw [State.sum_eq]
  rfl

/-- No sender faults. -/
theorem sendBlock_ne_fault {pcb len : Byte} {data : List Byte} {s : State} {f : Fault} :
    sendBlock pcb len data s ≠ .fault f := by
  unfold sendBlock; split <;> simp

theorem sendOrig_ne_fault {nad pcb len : Byte} {data : List Byte} {s : State} {f : Fault} :
    sendOrig nad pcb len data s ≠ .fault f := by
  unfold sendOrig; split <;> simp

/-! ### Recovery -/

theorem nextRecovery_eq_escalated (r : Recovery) (ft : Bool) : nextRecovery r ft = escalated r ft := by
  cases r <;> cases ft <;> rfl

theorem sendBlock_empty (pcb : Byte) (s : State) : sendBlock pcb 0#8 [] s = .next (sending s pcb []) :=
  sendBlock_eq s (by simp) rfl

theorem sendBlock_one (pcb b : Byte) (s : State) : sendBlock pcb 1#8 [b] s = .next (sending s pcb [b]) :=
  sendBlock_eq s (by simp) rfl

theorem sendOrig_empty (pcb : Byte) (s : State) :
    sendOrig nadHostToSe pcb 0#8 [] s = .next { sending s pcb [] with orig := built s.atp.checksum pcb [] } :=
  sendOrig_eq s (by simp) rfl

theorem pcbForR_other (ns : Seq) : pcbForR ns 0x02#8 = 0x82#8 ||| (ns.setWidth 8 <<< 4) := by
  revert ns; decide

theorem pcbForR_ok (ns : Seq) : pcbForR ns 0x00#8 = 0x80#8 ||| (ns.setWidth 8 <<< 4) := by
  revert ns; decide

/-- The entry into recovery always sends the new value's block (R170). -/
theorem doRecovery_eq (s : State) : doRecovery s = .next (inRecovery s) := by
  unfold doRecovery inRecovery
  rw [nextRecovery_eq_escalated]
  cases hr : s.recovery <;> cases hf : s.firstTransmission <;>
    simp [escalated, recoveryAction, sendBlock_empty, pcbForR_other, recoveryPcb, pcbForSReq, typeResynch,
      typeSwreset]

/-- A response failure ends the WARM_RESET action, and elsewhere enters recovery. -/
theorem responseFailure_eq (s : State) :
    responseFailure s = .next (if s.inWarmReset then s.raise .reset else inRecovery s) := by
  unfold responseFailure
  split <;> simp_all [doRecovery_eq]

theorem inWarmReset_iff (s : State) : s.inWarmReset = true ↔ s.lastTx.pcb = 0xCF#8 := by
  simp [State.inWarmReset, pcbForSReq, typeSwreset]

/-! ### The numeric limits -/

theorem fragLimit_eq (b : Byte) : fragLimit b = min b.toNat 254 := rfl

theorem fragLimit_le (b : Byte) : fragLimit b ≤ 254 := by simp [fragLimit, lenMax]

theorem fragLimit_eq_zero {b : Byte} : fragLimit b = 0 ↔ b = 0#8 := by
  rw [fragLimit_eq]
  constructor
  · intro h
    apply BitVec.eq_of_toNat_eq
    simp
    omega
  · rintro rfl; rfl

theorem Tpdu.wf_iff (t : Tpdu) : t.wf = true ↔ t.len ≠ 255#8 ∧ t.data.length = t.len.toNat := by
  simp [Tpdu.wf]

theorem Tpdu.len_le {t : Tpdu} (h : t.wf = true) : t.len.toNat ≤ 254 := by
  obtain ⟨h, _⟩ := (Tpdu.wf_iff t).1 h
  have := t.len.isLt
  by_contra hc
  apply h
  apply BitVec.eq_of_toNat_eq
  simp
  omega

/-- The blocks the engine builds are well formed. -/
theorem built_wf (k : ChecksumKind) (pcb : Byte) {data : List Byte} (h : data.length ≤ 254) :
    (built k pcb data).wf = true := by
  rw [Tpdu.wf_iff]
  have h1 : (BitVec.ofNat 8 data.length).toNat = data.length := by simp; omega
  refine ⟨fun e => ?_, h1.symm⟩
  have : (built k pcb data).len.toNat = 255 := by rw [e]; rfl
  simp [built] at this
  omega

end Sys2Proof.Machine
end

