-- ==== Sys2Proof/Laws/Decode.lean ====
section
/-! SUPPORT. Decoding: what a block that decodes must have been, and what a block that passes the checks decodes to. -/

namespace Sys2Proof.Machine

open Sys2Proof.Safety

/-- A LEN other than 255 is at most 254. -/
theorem len_le_of_ne {len : Byte} (h : len ≠ 255#8) : len.toNat ≤ 254 := by
  have := len.isLt
  have : len.toNat ≠ 255 := fun e => h (BitVec.eq_of_toNat_eq (by simp [e]))
  omega

/-- The LEN of at most 254 data bytes. -/
theorem ofNat_len {data : List Byte} (h : data.length ≤ 254) :
    (BitVec.ofNat 8 data.length).toNat = data.length ∧ BitVec.ofNat 8 data.length ≠ 255#8 := by
  have h1 : (BitVec.ofNat 8 data.length).toNat = data.length := by simp; omega
  refine ⟨h1, fun e => ?_⟩
  rw [e] at h1
  simp at h1
  omega

/-- Fields that fit the formats are decoded by kind alone (R67). -/
theorem decodeFields_of_fits {pcb len : Byte} {data : List Byte} (hp : pcbReservedClear pcb = true)
    (hl : len ≠ 255#8) (hd : data.length = len.toNat) :
    decodeFields pcb len data =
      match blockKind pcb with
      | .I => .ok (.i (pcbNs pcb) (pcbMore pcb) data)
      | .R => decodeR (pcbErr pcb) (pcbNr pcb) data
      | .S => decodeS (pcbStype pcb) (pcbRsp pcb) data := by
  unfold decodeFields
  rw [if_neg (by simp [hp]), if_neg hl, if_neg (by simp [hd])] <;> rfl

/-- The PCB and the data a decoded instruction came from (R67). -/
theorem decodeFields_pcb {pcb len : Byte} {data : List Byte} {i : Instr} (h : decodeFields pcb len data = .ok i) :
    match i with
    | .i ns more d => blockKind pcb = .I ∧ ns = pcbNs pcb ∧ more = pcbMore pcb ∧ d = data
    | .rOk nr => blockKind pcb = .R ∧ nr = pcbNr pcb
    | .rCkerr nr => blockKind pcb = .R ∧ nr = pcbNr pcb
    | .rOther nr => blockKind pcb = .R ∧ nr = pcbNr pcb
    | .sResynchReq => pcb = 0xC0#8
    | .sResynchRsp => pcb = 0xE0#8
    | .sIfsReq b => pcb = 0xC1#8 ∧ data = [b]
    | .sIfsRsp b => pcb = 0xE1#8 ∧ data = [b]
    | .sAbortReq => pcb = 0xC2#8
    | .sAbortRsp => pcb = 0xE2#8
    | .sWtxReq b => pcb = 0xC3#8 ∧ data = [b]
    | .sWtxRsp b => pcb = 0xE3#8 ∧ data = [b]
    | .sSwresetReq d => pcb = 0xCF#8 ∧ d = data
    | .sSwresetRsp d => pcb = 0xEF#8 ∧ d = data
    | .init _ => False
    | .xferPart _ _ => False
    | .xferApdu _ => False := by
  have hS : ∀ p, pcbReservedClear p = true → blockKind p = .S →
      p = (if pcbRsp p then 0xE0#8 else 0xC0#8) ||| (pcbStype p).setWidth 8 := by decide
  unfold decodeFields at h
  split at h
  · cases h
  rename_i h1
  split at h
  · cases h
  split at h
  · cases h
  split at h
  · cases h; exact ⟨‹_›, rfl, rfl, rfl⟩
  · unfold decodeR at h
    repeat' split at h
    all_goals cases h
    all_goals exact ⟨‹_›, rfl⟩
  · unfold decodeS at h
    have := hS pcb (by simpa using h1) ‹_›
    repeat' split at h
    all_goals cases h
    all_goals simp only [‹pcbStype pcb = _›] at this
    all_goals rename_i hr; simp only [hr, if_true, Bool.false_eq_true, if_false] at this
    all_goals simp [this]

/-- An undefined error kind is an R-block's (R75 a). -/
theorem decodeFields_undefined {pcb len : Byte} {data : List Byte} {nr : Seq}
    (h : decodeFields pcb len data = .error (.undefinedErrKind nr)) : blockKind pcb = .R ∧ nr = pcbNr pcb := by
  unfold decodeFields at h
  split at h
  · cases h
  split at h
  · cases h
  split at h
  · cases h
  split at h
  · cases h
  · unfold decodeR at h
    repeat' split at h
    all_goals cases h
    exact ⟨‹_›, rfl⟩
  · unfold decodeS at h
    repeat' split at h
    all_goals cases h

/-- Consistent means that every check passes (R135). -/
theorem consistent_eq_zero (s : State) :
    consistent s = 0 ↔
      check1 s = true ∧ check2 s = true ∧ check3 s = true ∧ check4 s = true ∧ check5 s = true := by
  unfold consistent
  cases check1 s <;> cases check2 s <;> cases check3 s <;> cases check4 s <;> cases check5 s <;> simp

/-- PARSE reads as many data bytes as a legal LEN says (R104). -/
theorem parse_data_length {k : ChecksumKind} {m : Memory} (h : m.read 2 ≠ 255#8) :
    (parse k m).data.length = (parse k m).len.toNat := by
  have := len_le_of_ne h
  simp [parse, frameLen, lenMax]
  omega

end Sys2Proof.Machine
end

