-- ==== Sys2Proof/Laws/Framer.lean ====
section
/-! SUPPORT. The framer and the link: what TO_BYTES stores, and what the reads of the link come to. -/

namespace Sys2Proof.Machine

open Sys2Proof.Safety

@[simp] theorem epilogue_length (k : ChecksumKind) (c : Word16) : (epilogue k c).length = epilogueLen k := by
  cases k <;> rfl

theorem epilogueLen_le (k : ChecksumKind) : 1 ≤ epilogueLen k ∧ epilogueLen k ≤ 2 := by cases k <;> simp [epilogueLen]

/-- The sum's value read back from its epilogue (R44). -/
theorem epilogueValue_epilogue (k : ChecksumKind) (bs : List Byte) :
    epilogueValue (epilogue k (checksum k bs)) = checksum k bs := by
  cases k
  · simp only [epilogue, epilogueValue, checksum]
    apply BitVec.eq_of_toNat_eq
    simp
    omega
  · simp only [epilogue, epilogueValue]
    apply BitVec.eq_of_getLsbD_eq
    intro i hi
    by_cases h : i < 8
    · simp [h, hi]
    · have h1 : i - 8 < 8 := by omega
      have h2 : 8 + (i - 8) = i := by omega
      simp [h, h1, h2, hi]

theorem image_length (k : ChecksumKind) (nad pcb : Byte) (data : List Byte) :
    (image k nad pcb data).length = 3 + data.length + epilogueLen k := by
  simp [image]; omega

/-- TO_BYTES on a well-formed TPDU (R100): one store of the frame's image at offset 0. -/
theorem toBytes_eq (k : ChecksumKind) {t : Tpdu} {buf : Memory} (hw : buf.wf = true) (ht : t.wf = true) :
    toBytes k t buf =
      .ok (buf.writeList 0 (image k t.nad t.pcb t.data), 3 + t.len.toNat + epilogueLen k) := by
  have hl := Tpdu.len_le ht
  obtain ⟨-, hd⟩ := (Tpdu.wf_iff t).1 ht
  have hE := epilogueLen_le k
  have hlen : BitVec.ofNat 8 t.data.length = t.len := by rw [hd]; simp
  have hsum : (buf.writeList 0 (t.nad :: t.pcb :: t.len :: t.data)).bytes 0 (3 + t.len.toNat) =
      t.nad :: t.pcb :: t.len :: t.data := by
    have := Memory.bytes_writeList_self (off := 0) (bs := t.nad :: t.pcb :: t.len :: t.data) hw
      (by simp [tpduMax]; omega)
    have hn : (t.nad :: t.pcb :: t.len :: t.data).length = 3 + t.len.toNat := by simp; omega
    rwa [hn] at this
  have hcat : buf.writeList 0 (image k t.nad t.pcb t.data) =
      (buf.writeList 0 (t.nad :: t.pcb :: t.len :: t.data)).writeList (3 + t.len.toNat)
        (epilogue k (checksum k (t.nad :: t.pcb :: t.len :: t.data))) := by
    have := Memory.writeList_append buf 0 (t.nad :: t.pcb :: t.len :: t.data)
      (epilogue k (checksum k (t.nad :: t.pcb :: t.len :: t.data)))
    have hn : 0 + (t.nad :: t.pcb :: t.len :: t.data).length = 3 + t.len.toNat := by simp; omega
    rw [hn] at this
    rw [this, image, hlen]
  unfold toBytes
  simp only [ht, Bool.not_true, Bool.false_eq_true, if_false]
  rw [memWrite_in_range (by simp [tpduMax])]
  simp only [bind, Except.bind]
  rw [memWrite_in_range (by simp [tpduMax])]
  simp only
  rw [memWrite_in_range (by simp [tpduMax])]
  simp only
  rw [memWrite_in_range (by simp [tpduMax, hd]; omega)]
  simp only
  rw [memRead_in_range (by simp [tpduMax]; omega)]
  simp only
  rw [memWrite_in_range (by simp [tpduMax]; omega)]
  rw [hcat]
  simp only [Memory.writeList] at hsum ⊢
  rw [hsum]
  rfl

/-- A well-formed TPDU's frame fits the buffer, and reads back whole. -/
theorem image_bytes (k : ChecksumKind) {t : Tpdu} {buf : Memory} (hw : buf.wf = true) (ht : t.wf = true) :
    (buf.writeList 0 (image k t.nad t.pcb t.data)).bytes 0 (3 + t.len.toNat + epilogueLen k) =
      image k t.nad t.pcb t.data := by
  have hl := Tpdu.len_le ht
  obtain ⟨-, hd⟩ := (Tpdu.wf_iff t).1 ht
  have hE := epilogueLen_le k
  have hn := image_length k t.nad t.pcb t.data
  have := Memory.bytes_writeList_self (off := 0) (bs := image k t.nad t.pcb t.data) hw
    (by rw [hn]; simp [tpduMax]; omega)
  rwa [hn, hd] at this

theorem image_fits (k : ChecksumKind) {t : Tpdu} (ht : t.wf = true) :
    0 + (image k t.nad t.pcb t.data).length ≤ tpduMax := by
  have hl := Tpdu.len_le ht
  obtain ⟨-, hd⟩ := (Tpdu.wf_iff t).1 ht
  have hE := epilogueLen_le k
  rw [image_length]; simp [tpduMax]; omega

/-! ### The link -/

/-- Bytes other than 0x12 are discarded while polling (R111). -/
theorem pollLink_noise {noise : List Byte} (h : ∀ b ∈ noise, b ≠ 0x12#8) (draws : List ReadDraw) :
    pollLink (noise.map .byte ++ draws) = pollLink draws := by
  induction noise with
  | nil => rfl
  | cons b noise ih =>
    have hb : b ≠ nadSeToHost := h b (by simp)
    simp only [List.map_cons, List.cons_append, pollLink, hb, if_false]
    exact ih fun b hb => h b (by simp [hb])

/-- A read that is answered gives as many bytes as were asked for. -/
theorem readLink_length {n : Nat} {draws rest : List ReadDraw} {bs : List Byte}
    (h : readLink n draws = .got bs rest) : bs.length = n := by
  induction draws generalizing n bs with
  | nil =>
    cases n <;> simp [readLink] at h
    simp [h.1]
  | cons d draws ih =>
    cases n with
    | zero => simp [readLink] at h; simp [h.1]
    | succ n =>
      cases d with
      | byte b =>
        simp only [readLink] at h
        split at h
        · rename_i hr
          cases h
          simp [ih hr]
        · rename_i hne
          exact absurd h (hne _ _)
      | expired => simp only [readLink] at h; exact ih h
      | ioErr => simp [readLink] at h

/-- Window's ends before a read that still wants bytes mean nothing (R112). -/
theorem readLink_expired (n k : Nat) (draws : List ReadDraw) :
    readLink (n + 1) (List.replicate k .expired ++ draws) = readLink (n + 1) draws := by
  induction k with
  | zero => rfl
  | succ k ih => rw [List.replicate_succ, List.cons_append, readLink, ih]

@[simp] theorem withGaps_nil : withGaps [] = [] := rfl

theorem withGaps_cons (p : Nat × Byte) (g : List (Nat × Byte)) :
    withGaps (p :: g) = List.replicate p.1 .expired ++ .byte p.2 :: withGaps g := by
  simp [withGaps]

theorem withGaps_append (g g' : List (Nat × Byte)) : withGaps (g ++ g') = withGaps g ++ withGaps g' := by
  simp [withGaps]

/-- One byte more, whatever window's ends lie before it. -/
theorem readLink_withGaps_cons (n : Nat) (p : Nat × Byte) (g : List (Nat × Byte)) (rest : List ReadDraw) :
    readLink (n + 1) (withGaps (p :: g) ++ rest) =
      match readLink n (withGaps g ++ rest) with
      | .got bs rest' => .got (p.2 :: bs) rest'
      | r => r := by
  rw [withGaps_cons, List.append_assoc, readLink_expired]
  rfl

/-- A read whose bytes are there takes exactly them. -/
theorem readLink_gaps (g : List (Nat × Byte)) (rest : List ReadDraw) :
    readLink g.length (withGaps g ++ rest) = .got (g.map Prod.snd) rest := by
  induction g with
  | nil => cases rest <;> rfl
  | cons p g ih => rw [List.length_cons, readLink_withGaps_cons, ih]; rfl

/-- A link error before the read is complete ends it (R192). -/
theorem readLink_err {n : Nat} {g : List (Nat × Byte)} (h : g.length < n) (k : Nat) (rest : List ReadDraw) :
    readLink n (withGaps g ++ List.replicate k .expired ++ .ioErr :: rest) = .err rest := by
  rw [List.append_assoc]
  induction g generalizing n with
  | nil =>
    obtain ⟨n, rfl⟩ : ∃ m, n = m + 1 := ⟨n - 1, by simp at h; omega⟩
    rw [withGaps_nil, List.nil_append, readLink_expired]
    rfl
  | cons p g ih =>
    obtain ⟨n, rfl⟩ : ∃ m, n = m + 1 := ⟨n - 1, by simp at h; omega⟩
    rw [readLink_withGaps_cons, ih (by simpa using h)]

/-- A read whose bytes are not all there blocks (R112). -/
theorem readLink_pending {n : Nat} {g : List (Nat × Byte)} (h : g.length < n) (k : Nat) :
    readLink n (withGaps g ++ List.replicate k .expired) = .pending := by
  induction g generalizing n with
  | nil =>
    obtain ⟨n, rfl⟩ : ∃ m, n = m + 1 := ⟨n - 1, by simp at h; omega⟩
    rw [withGaps_nil, List.nil_append, ← List.append_nil (List.replicate k _), readLink_expired]
    rfl
  | cons p g ih =>
    obtain ⟨n, rfl⟩ : ∃ m, n = m + 1 := ⟨n - 1, by simp at h; omega⟩
    rw [readLink_withGaps_cons, ih (by simpa using h)]

/-- Polling that meets only bytes other than 0x12 goes on (R111). -/
theorem pollLink_pending {noise : List Byte} (h : ∀ b ∈ noise, b ≠ 0x12#8) :
    pollLink (noise.map .byte) = .pending := by
  rw [← List.append_nil (noise.map _), pollLink_noise h]
  rfl

/-- The reads of a body give LEN data bytes and an epilogue of the asked length. -/
theorem readBody_got {len epiLen : Nat} {draws rest : List ReadDraw} {data epi : List Byte}
    (h : readBody len epiLen draws = .got data epi rest) : data.length = len ∧ epi.length = epiLen := by
  unfold readBody at h
  split at h
  · cases h
  · cases h
  · rename_i h1
    split at h
    · cases h
    · cases h
    · rename_i h2
      cases h
      exact ⟨readLink_length h1, readLink_length h2⟩

theorem readBody_errInEpilogue {len epiLen : Nat} {draws rest : List ReadDraw} {data : List Byte}
    (h : readBody len epiLen draws = .errInEpilogue data rest) : data.length = len := by
  unfold readBody at h
  split at h
  · cases h
  · cases h
  · rename_i h1
    split at h
    · cases h
    · cases h; exact readLink_length h1
    · cases h

/-- A body whose bytes are there is read whole. -/
theorem readBody_gaps (gd ge : List (Nat × Byte)) (rest : List ReadDraw) :
    readBody gd.length ge.length (withGaps (gd ++ ge) ++ rest) =
      .got (gd.map Prod.snd) (ge.map Prod.snd) rest := by
  unfold readBody
  rw [withGaps_append, List.append_assoc, readLink_gaps]
  simp only
  rw [readLink_gaps]

/-- A body whose bytes are not all there blocks. -/
theorem readBody_pending {len epiLen : Nat} {g : List (Nat × Byte)} (h : g.length < len + epiLen) (k : Nat) :
    readBody len epiLen (withGaps g ++ List.replicate k .expired) = .pending := by
  unfold readBody
  by_cases hc : g.length < len
  · rw [readLink_pending hc]
  · have hl : (g.take len).length = len := by rw [List.length_take]; omega
    rw [← List.take_append_drop len g, withGaps_append, List.append_assoc]
    have h1 := readLink_gaps (g.take len) (withGaps (g.drop len) ++ List.replicate k .expired)
    rw [hl] at h1
    rw [h1]
    simp only
    rw [readLink_pending (by rw [List.length_drop]; omega)]

/-- A link error in a body, in its data or after them. -/
theorem readBody_err {len epiLen : Nat} {g : List (Nat × Byte)} (h : g.length < len + epiLen) (k : Nat)
    (rest : List ReadDraw) :
    readBody len epiLen (withGaps g ++ List.replicate k .expired ++ .ioErr :: rest) =
      if g.length < len then .errInData rest else .errInEpilogue ((g.take len).map Prod.snd) rest := by
  unfold readBody
  split_ifs with hc
  · rw [readLink_err hc]
  · have hl : (g.take len).length = len := by rw [List.length_take]; omega
    have h1 := readLink_gaps (g.take len) (withGaps (g.drop len) ++ List.replicate k .expired ++ .ioErr :: rest)
    rw [hl, ← List.append_assoc, ← List.append_assoc, ← withGaps_append, List.take_append_drop] at h1
    rw [h1]
    simp only
    rw [readLink_err (by rw [List.length_drop]; omega)]

end Sys2Proof.Machine
end

