-- ==== Sys2Proof/Laws/Step.lean ====
section
/-! SUPPORT. What a step is in each phase, and one lemma per phase that says once everything it can come to. -/

namespace Sys2Proof.Machine

open Sys2Proof.Safety

theorem step_port {s : State} {c : CmdPort} (h : s.port = some c) : step s = portPhase c s := by
  unfold step; rw [h]

theorem step_uninit {s : State} (h : s.port = none) (hp : s.phase = .uninit) : step s = .next s := by
  unfold step; rw [h]; simp only [hp]

theorem step_idle {s : State} (h : s.port = none) (hp : s.phase = .idle) : step s = idlePhase s := by
  unfold step; rw [h]; simp only [hp]

theorem step_send {s : State} (h : s.port = none) (hp : s.phase = .send) : step s = sendPhase s := by
  unfold step; rw [h]; simp only [hp]

theorem step_wait {s : State} (h : s.port = none) (hp : s.phase = .wait) : step s = waitPhase s := by
  unfold step; rw [h]; simp only [hp]

theorem step_read {s : State} (h : s.port = none) (hp : s.phase = .read) : step s = readPhase s := by
  unfold step; rw [h]; simp only [hp]

theorem step_eval {s : State} (h : s.port = none) (hp : s.phase = .eval) : step s = evalPhase s := by
  unfold step; rw [h]; simp only [hp]

/-- A run of one more step than `n` goes on from the first step's next state. -/
theorem run_succ {s t : State} (n : Nat) (h : step s = .next t) :
    Sys2Proof.core.run (n + 1) s = Sys2Proof.core.run n t := by
  have h' : Sys2Proof.core.step s = .next t := h
  simp only [Host.Core.run, h']

theorem run_zero (s : State) : Sys2Proof.core.run 0 s = .next s := rfl

/-- A run of `n + m` steps is the run of `m` steps from where the first `n` come to. -/
theorem run_add {s t : State} {n : Nat} (m : Nat) (h : Sys2Proof.core.run n s = .next t) :
    Sys2Proof.core.run (n + m) s = Sys2Proof.core.run m t := by
  induction n generalizing s with
  | zero =>
    cases (h : (Host.Outcome.next s : Host.Outcome State Fault Refusal) = .next t)
    rw [Nat.zero_add]
  | succ n ih =>
    rw [Nat.succ_add]
    cases hs : step s with
    | next s' => rw [run_succ n hs] at h; rw [run_succ _ hs]; exact ih h
    | fault f =>
      have hs' : Sys2Proof.core.step s = .fault f := hs
      simp only [Host.Core.run, hs'] at h; cases h
    | refused r =>
      have hs' : Sys2Proof.core.step s = .refused r := hs
      simp only [Host.Core.run, hs'] at h; cases h

/-- In IDLE with an XFER_APDU in progress whose part has ended, the wrapper goes on. -/
theorem idlePhase_part {s : State} {x : ApduRun} {o : OpOutcome} (hx : s.apdu = some x) (ho : x.part = some o) :
    idlePhase s = resumeApdu x o s := by
  unfold idlePhase; rw [hx]; simp only [ho]

theorem idlePhase_none {s : State} (hx : s.apdu = none) : idlePhase s = .next s := by
  unfold idlePhase; rw [hx]

/-- What a host operation on the port comes to: the decoded instruction's meaning, or the refusal of the reserved
code. -/
theorem portPhase_cases (c : CmdPort) (s : State) :
    (c.cmdOp = 0#2 ∧ portPhase c s = execInit c.atpLoad { s with port := none }) ∨
    (c.cmdOp = 1#2 ∧ portPhase c s = execXferPart c.cmd c.isLast { s with port := none }) ∨
    (c.cmdOp = 2#2 ∧ portPhase c s = execXferApdu c.cmd { s with port := none }) ∨
    (c.cmdOp = 3#2 ∧ portPhase c s = .refused .reservedCmdOp) := by
  have h : ∀ b : BitVec 2, b = 0#2 ∨ b = 1#2 ∨ b = 2#2 ∨ b = 3#2 := by decide
  rcases h c.cmdOp with h | h | h | h <;> simp [portPhase, decodeCmd, h, exec]

/-! ### Host operations -/

theorem chained_iff (t : Tpdu) : t.chained = true ↔ blockKind t.pcb = .I ∧ t.pcb.getLsbD 5 = true := by
  simp [Tpdu.chained, pcbMore]

theorem busy_idle {s : State} (h : s.phase = .idle) (ha : s.apdu = none) : s.busy = false := by
  simp [State.busy, h, ha]

theorem acceptXfer_idle {s : State} (h : s.phase = .idle) (ha : s.apdu = none) : acceptXfer true s = none := by
  simp [acceptXfer, busy_idle h ha, h]

/-- A transfer is accepted in IDLE only, with no XFER_APDU in progress. -/
theorem acceptXfer_none {b : Bool} {s : State} (h : acceptXfer b s = none) : s.phase = .idle ∧ s.apdu = none := by
  unfold acceptXfer at h
  split at h
  · cases h
  · rename_i hb
    split at h
    · cases h
    · rename_i hu
      cases hp : s.phase <;> simp_all [State.busy]

/-- The start of a part with command bytes within the limit (R122, R124). -/
theorem startPart_cmd {cmd : List Byte} {isLast : Bool} {s : State} (h : cmd ≠ [])
    (hl : cmd.length ≤ fragLimit s.atp.ifsc) :
    startPart cmd isLast s =
      .next { sending s (pcbForI s.nsMaster isLast) cmd with
        orig := built s.atp.checksum (pcbForI s.nsMaster isLast) cmd } := by
  unfold startPart
  rw [if_neg (by omega), if_neg h, sendOrig_eq _ (by have := fragLimit_le s.atp.ifsc; omega) rfl]

/-- The start of a part without a byte (R122, R125). -/
theorem startPart_nil {isLast : Bool} {s : State} :
    startPart [] isLast s =
      .next { sending s (0x80#8 ||| (s.nsSlave.setWidth 8 <<< 4)) [] with
        orig := built s.atp.checksum (0x80#8 ||| (s.nsSlave.setWidth 8 <<< 4)) [] } := by
  unfold startPart
  rw [if_neg (by simp), if_pos rfl, sendOrig_empty, pcbForR_ok]

/-- What the start of a part comes to. -/
theorem startPart_cases (cmd : List Byte) (isLast : Bool) (s : State) :
    (fragLimit s.atp.ifsc < cmd.length ∧ startPart cmd isLast s = .refused .cmdTooLong) ∨
    (cmd.length ≤ fragLimit s.atp.ifsc ∧ ∃ pcb, pcb ∈ origPcbs ∧
      startPart cmd isLast s = .next { sending s pcb cmd with orig := built s.atp.checksum pcb cmd }) := by
  have hI : ∀ (n : Seq) (l : Bool), pcbForI n l ∈ origPcbs := by decide
  have hR : ∀ n : Seq, 0x80#8 ||| (n.setWidth 8 <<< 4) ∈ origPcbs := by decide
  by_cases hc : fragLimit s.atp.ifsc < cmd.length
  · exact .inl ⟨hc, by unfold startPart; rw [if_pos hc]⟩
  · refine .inr ⟨by omega, ?_⟩
    by_cases hn : cmd = []
    · subst hn; exact ⟨_, hR _, startPart_nil⟩
    · exact ⟨_, hI _ _, startPart_cmd hn (by omega)⟩

/-- One turn of the command-side loop that may send (R127). -/
theorem sendFragment_eq (x : ApduRun) {s : State} (h : s.atp.ifsc ≠ 0#8) (hl : x.cmd.drop x.off ≠ []) :
    sendFragment x s =
      let chunk := fragLimit s.atp.ifsc
      let left := x.cmd.drop x.off
      let pcb := pcbForI s.nsMaster (!decide (chunk < left.length))
      let frag := if chunk < left.length then left.take chunk else left
      .next { sending s pcb frag with
        orig := built s.atp.checksum pcb frag
        apdu := some { x with
          chunk := chunk
          side := if chunk < left.length then .command else .response
          part := none } } := by
  have h0 : fragLimit s.atp.ifsc ≠ 0 := by rw [Ne, fragLimit_eq_zero]; exact h
  unfold sendFragment
  simp only [h0, if_false]
  by_cases hc : fragLimit s.atp.ifsc < (x.cmd.drop x.off).length
  · simp only [hc, if_true]
    rw [startPart_cmd]
    · simp only [decide_true, Bool.not_true]; rfl
    · rw [Ne, List.take_eq_nil_iff]
      exact fun e => e.elim h0 hl
    · rw [List.length_take]; exact Nat.min_le_left _ _
  · simp only [hc, if_false]
    rw [startPart_cmd hl (by simp only []; omega)]
    simp only [decide_false, Bool.not_false]; rfl

/-- What one turn of the command-side loop comes to. -/
theorem sendFragment_cases (x : ApduRun) (s : State) :
    (fragLimit s.atp.ifsc = 0 ∧ sendFragment x s = .refused .zeroChunk) ∨
    (∃ pcb frag y, pcb ∈ origPcbs ∧ frag.length ≤ fragLimit s.atp.ifsc ∧
      sendFragment x s =
        .next { sending s pcb frag with orig := built s.atp.checksum pcb frag, apdu := some y }) := by
  by_cases h0 : fragLimit s.atp.ifsc = 0
  · exact .inl ⟨h0, by unfold sendFragment; simp only [h0, if_true]⟩
  · refine .inr ?_
    unfold sendFragment
    simp only [h0, if_false]
    split
    · rename_i hc
      rcases startPart_cases ((x.cmd.drop x.off).take (fragLimit s.atp.ifsc)) false
        { s with apdu := some { x with chunk := fragLimit s.atp.ifsc, side := .command, part := none } } with
        ⟨h, -⟩ | ⟨h, pcb, hp, he⟩
      · exact absurd h (by simp)
      · exact ⟨pcb, _, _, hp, h, by rw [he]; rfl⟩
    · rename_i hc
      rcases startPart_cases (x.cmd.drop x.off) true
        { s with apdu := some { x with chunk := fragLimit s.atp.ifsc, side := .response, part := none } } with
        ⟨h, -⟩ | ⟨h, pcb, hp, he⟩
      · exact absurd h hc
      · exact ⟨pcb, _, _, hp, h, by rw [he]; rfl⟩

/-- What the wrapper comes to between two parts (R127). -/
theorem resumeApdu_cases (x : ApduRun) (o : OpOutcome) (s : State) :
    (∃ k, resumeApdu x o s = .next (s.apduErr k)) ∨
    (∃ d, resumeApdu x o s = .next { s with apdu := none, resp := d, outcome := some (.respFinal d) }) ∨
    resumeApdu x o s = .refused .zeroChunk ∨
    (∃ pcb frag y, pcb ∈ origPcbs ∧ frag.length ≤ fragLimit s.atp.ifsc ∧
      resumeApdu x o s =
        .next { sending s pcb frag with orig := built s.atp.checksum pcb frag, apdu := some y }) := by
  have hR : ∀ n : Seq, 0x80#8 ||| (n.setWidth 8 <<< 4) ∈ origPcbs := by decide
  unfold resumeApdu
  split
  · exact .inl ⟨_, rfl⟩
  · rcases sendFragment_cases { x with off := x.off + x.chunk } s with ⟨-, he⟩ | he
    · exact .inr (.inr (.inl he))
    · exact .inr (.inr (.inr he))
  · exact .inl ⟨_, rfl⟩
  · exact .inr (.inl ⟨_, rfl⟩)
  · exact .inr (.inr (.inr ⟨_, [], _, hR _, by simp, by rw [startPart_nil]; rfl⟩))
  · exact .inl ⟨_, rfl⟩

/-! ### Ending an operation -/

/-- A raised error leaves everything but `resp`, the phase and the outcome (R187). -/
theorem raise_eq (s : State) (k : ErrKind) :
    s.raise k = { s with
      resp := (s.raise k).resp
      free := (s.raise k).free
      phase := .idle
      outcome := if s.apdu.isNone then some (.err k) else s.outcome
      apdu := s.apdu.map fun x => { x with part := some (.err k) } } := by
  simp [State.raise, State.endOp_eq, State.loseResp]

/-! ### R-blocks -/

/-- What processing an R-block comes to (R147). -/
theorem processR_cases (nr : Seq) (s : State) :
    (s.orig.chained = true → nr = s.nsMaster.flip →
      processR nr s = .next ({ s with nsMaster := s.nsMaster.flip, resp := [] }.endOp .ack)) ∧
    (nr = s.nsMaster → processR nr s = .next (s.exchange s.orig)) ∧
    (¬ s.orig.chained → nr ≠ s.nsMaster → processR nr s = .next (inRecovery s)) := by
  have hf : ∀ v : Seq, v ≠ v.flip := by decide
  refine ⟨fun h1 h2 => ?_, fun h => ?_, fun h1 h2 => ?_⟩
  · simp [processR, h1, h2]
  · subst h
    by_cases hc : s.orig.chained <;> simp [processR, hc, retransmit, hf]
  · simp [processR, h1, h2, doRecovery_eq]

/-! ### SEND -/

/-- SEND on a well-formed TPDU: what the link's answer makes of it (R110). -/
theorem sendPhase_eq {s : State} (hb : s.txBuf.wf = true) (ht : s.lastTx.wf = true) :
    sendPhase s =
      let bytes := image s.atp.checksum s.lastTx.nad s.lastTx.pcb s.lastTx.data
      match s.linkWr with
      | [] => .next s
      | .ioErr :: rest => .next ({ s.framed (s.txBuf.writeList 0 bytes) with linkWr := rest }.raise .io)
      | .ok :: rest =>
        .next { s.framed (s.txBuf.writeList 0 bytes) with
          linkWr := rest
          events := s.events ++ [.linkWrite bytes, .timerArm s.nbwt s.atp.bwt]
          phase := .wait } := by
  have hl := Tpdu.len_le ht
  have hE := epilogueLen_le s.atp.checksum
  unfold sendPhase
  rw [toBytes_eq _ hb ht]
  simp only
  rw [memRead_in_range (by simp [tpduMax]; omega), image_bytes _ hb ht] <;> rfl

end Sys2Proof.Machine
end

