-- ==== Sys2Proof/Laws/Moves.lean ====
section
/-! SUPPORT. Once and for all what a step that answers a next state can have done: the inversion lemma that statements
about every step are proved from. -/

namespace Sys2Proof.Machine

open Sys2Proof.Safety

/-- What a received block can do to the state it is processed in (R146 to R156). -/
inductive BlockMove (i : Instr) (s : State) : State → Prop where
  /-- An I-block (R146). -/
  | iBlock (ns : Seq) (more : Bool) (data : List Byte) (hi : i = .i ns more data) :
      BlockMove i s
        ({ s with
          nsMaster := if blockKind s.orig.pcb = BlockKind.I then s.nsMaster.flip else s.nsMaster
          nsSlave := s.nsSlave.flip
          resp := data }.endOp (if more then .respMore data else .respFinal data))
  /-- An R-block that acknowledges a chained `orig` (R147 a). -/
  | ack (hi : i = .rOk s.nsMaster.flip ∨ i = .rCkerr s.nsMaster.flip ∨ i = .rOther s.nsMaster.flip)
      (hc : s.orig.chained = true) :
      BlockMove i s ({ s with nsMaster := s.nsMaster.flip, resp := [] }.endOp .ack)
  /-- An R-block that asks for `orig` again (R147 b, c). -/
  | resend (hi : i = .rOk s.nsMaster ∨ i = .rCkerr s.nsMaster ∨ i = .rOther s.nsMaster) :
      BlockMove i s (s.exchange s.orig)
  /-- An R-block that fits no case (R147 d). -/
  | recover (nr : Seq) (hi : i = .rOk nr ∨ i = .rCkerr nr ∨ i = .rOther nr) (hc : s.orig.chained = false)
      (hn : nr ≠ s.nsMaster) : BlockMove i s (inRecovery s)
  /-- RESYNCH request (R152). -/
  | resynchReq (hi : i = .sResynchReq) : BlockMove i s (sending s.zeroSeq 0xE0#8 [])
  /-- RESYNCH response with a renumbered `orig` (R153). -/
  | resynchRsp (t : Tpdu) (hi : i = .sResynchRsp) (hw : t.wf = true) (hn : t.nad = s.orig.nad)
      (hk : blockKind s.orig.pcb = .I ∧ t.pcb = s.orig.pcb &&& 0xBF#8 ∨
        blockKind s.orig.pcb = .R ∧ t.pcb = s.orig.pcb &&& 0xEF#8) (bs : List Byte) :
      BlockMove i s ({ s.zeroSeq.sum bs with orig := t }.exchange t)
  /-- RESYNCH response with `orig` as it is (R153). -/
  | resynchRspSame (hi : i = .sResynchRsp) : BlockMove i s (s.zeroSeq.exchange s.orig)
  /-- IFS request (R151). -/
  | ifsReq (b : Byte) (hi : i = .sIfsReq b) :
      BlockMove i s (sending { s with atp := { s.atp with ifsc := b } } 0xE1#8 [b])
  /-- WTX request (R150). -/
  | wtxReq (b : Byte) (hi : i = .sWtxReq b) : BlockMove i s (sending { s with nbwt := b } 0xE3#8 [b])
  /-- SWRESET response (R154). -/
  | swresetRsp (data : List Byte) (hi : i = .sSwresetRsp data) :
      BlockMove i s ({ s with atp := (Config.atpParse data).getD s.atp }.zeroSeq.raise .reset)
  /-- The ABORT request and the four S-blocks without a handler (R155, R156). -/
  | noHandler (b : Byte) (data : List Byte)
      (hi : i = .sAbortReq ∨ i = .sAbortRsp ∨ i = .sWtxRsp b ∨ i = .sIfsRsp b ∨ i = .sSwresetReq data) :
      BlockMove i s (s.raise .reset)

theorem processR_move {i : Instr} {nr : Seq} {s t : State} (hi : i = .rOk nr ∨ i = .rCkerr nr ∨ i = .rOther nr)
    (h : processR nr s = .next t) : BlockMove i s t := by
  unfold processR at h
  split at h
  · rename_i hc
    cases h
    exact .ack (hc.2 ▸ hi) hc.1
  · split at h
    · rename_i hc
      cases h
      exact .resend (hc.2 ▸ hi)
    · split at h
      · rename_i hc
        cases h
        exact .resend (hc.2 ▸ hi)
      · rename_i h1 h2 h3
        rw [doRecovery_eq] at h
        cases h
        have hc : s.orig.chained = false := by
          by_contra hc
          have hc : s.orig.chained = true := by simpa using hc
          have : ∀ a b : Seq, a = b ∨ a = b.flip := by decide
          rcases this nr s.nsMaster with e | e
          · exact h2 ⟨hc, e⟩
          · exact h1 ⟨hc, e⟩
        exact .recover nr hi hc fun e => h3 ⟨by simp [hc], e⟩

/-- Every next state of a received block's meaning is one of `BlockMove`. -/
theorem exec_blockMove {i : Instr} {s t : State} (hb : isBlock i = true) (h : exec i s = .next t) :
    BlockMove i s t := by
  cases i <;> simp only [isBlock, Bool.false_eq_true] at hb <;> simp only [exec] at h
  case i ns more data =>
    unfold execI at h
    cases h
    have := BlockMove.iBlock (s := s) ns more data rfl
    split <;> simp_all only [if_true, if_false, State.storeResp_unbounded]
  case rOk => exact processR_move (.inl rfl) h
  case rCkerr => exact processR_move (.inr (.inl rfl)) h
  case rOther => exact processR_move (.inr (.inr rfl)) h
  case sResynchReq =>
    unfold execSResynchReq at h
    rw [sendBlock_empty] at h
    cases h
    exact .resynchReq rfl
  case sResynchRsp =>
    unfold execSResynchRsp at h
    split at h
    · rename_i hc
      obtain ⟨h1, h2, rfl⟩ := sendOrig_next h
      exact .resynchRsp (sealTpdu s.zeroSeq.atp.checksum s.orig.nad (s.orig.pcb &&& 0xBF#8) s.orig.len s.orig.data) rfl
        ((Tpdu.wf_iff _).2 ⟨h1, h2⟩) rfl (.inl ⟨hc.1, rfl⟩) _
    · split at h
      · rename_i hc
        obtain ⟨h1, h2, rfl⟩ := sendOrig_next h
        exact .resynchRsp (sealTpdu s.zeroSeq.atp.checksum s.orig.nad (s.orig.pcb &&& 0xEF#8) 0#8 []) rfl
          ((Tpdu.wf_iff _).2 ⟨h1, h2⟩) rfl (.inr ⟨hc.1, rfl⟩) _
      · cases h
        exact .resynchRspSame rfl
  case sIfsReq =>
    unfold execSIfsReq at h
    rw [sendBlock_one] at h
    cases h
    exact .ifsReq _ rfl
  case sWtxReq =>
    unfold execSWtxReq at h
    rw [sendBlock_one] at h
    cases h
    exact .wtxReq _ rfl
  case sSwresetRsp => cases h; exact .swresetRsp _ rfl
  case sAbortReq => cases h; exact .noHandler 0#8 [] (.inl rfl)
  case sAbortRsp => cases h; exact .noHandler 0#8 [] (.inr (.inl rfl))
  case sWtxRsp b => cases h; exact .noHandler b [] (.inr (.inr (.inl rfl)))
  case sIfsRsp b => cases h; exact .noHandler b [] (.inr (.inr (.inr (.inl rfl))))
  case sSwresetReq d => cases h; exact .noHandler 0#8 d (.inr (.inr (.inr (.inr rfl))))

/-- The state a consistent block is processed in (R172, steps 2 and 3). -/
def State.settled (s : State) : State := s.sumReceived.settle

theorem settled_eq (s : State) :
    s.settled = { s with
      crcAcc := s.sumReceived.crcAcc
      lrcAcc := s.sumReceived.lrcAcc
      free := s.sumReceived.free
      recovery := .ok
      firstTransmission := false } := by
  unfold State.settled State.settle State.sumReceived
  split <;> simp [State.sum_eq]

theorem sumReceived_eq (s : State) :
    s.sumReceived = { s with
      crcAcc := s.sumReceived.crcAcc
      lrcAcc := s.sumReceived.lrcAcc
      free := s.sumReceived.free } := by
  unfold State.sumReceived
  split <;> simp [State.sum_eq]

/-- What a step that answers a next state can have done, from any state. -/
inductive Move (s : State) : State → Prop where
  /-- INIT (R121). -/
  | initOk (c : CmdPort) (a : Atp) (hp : s.port = some c) (hc : decodeCmd c = .ok (.init c.atpLoad))
      (hb : s.busy = false) : Move s ({ s with port := none }.initWith a)
  | initFailed (c : CmdPort) (hp : s.port = some c) (hc : decodeCmd c = .ok (.init c.atpLoad)) (hb : s.busy = false) :
      Move s { s with port := none }.initFailed
  /-- A transfer begins, XFER_PART or XFER_APDU (R122, R127). -/
  | begin (c : CmdPort) (pcb : Byte) (frag : List Byte) (x : Option ApduRun) (hp : s.port = some c)
      (hph : s.phase = .idle) (ha : s.apdu = none) (hpcb : pcb ∈ origPcbs)
      (hl : frag.length ≤ fragLimit s.atp.ifsc) :
      Move s { sending { s with port := none } pcb frag with
        orig := built s.atp.checksum pcb frag, outcome := none, apdu := x }
  /-- Nothing to do, or nothing the link has answered yet. -/
  | stay (hp : s.port = none) (hph : s.phase ≠ .eval)
      (hi : s.phase = .idle → s.apdu = none) : Move s s
  /-- Polling has discarded what came (R111). -/
  | discard (hp : s.port = none) (hph : s.phase = .wait) : Move s { s with linkRd := [] }
  /-- The wrapper ends the XFER_APDU with an error (R127). -/
  | apduErr (k : ErrKind) (hp : s.port = none) (hph : s.phase = .idle) : Move s (s.apduErr k)
  /-- The wrapper ends the XFER_APDU with its response (R127). -/
  | apduDone (d : List Byte) (hp : s.port = none) (hph : s.phase = .idle) :
      Move s { s with apdu := none, resp := d, outcome := some (.respFinal d) }
  /-- The wrapper's next part (R127). -/
  | apduPart (pcb : Byte) (frag : List Byte) (x y : ApduRun) (hp : s.port = none) (hph : s.phase = .idle)
      (ha : s.apdu = some x) (hpcb : pcb ∈ origPcbs) (hl : frag.length ≤ fragLimit s.atp.ifsc) :
      Move s { sending s pcb frag with orig := built s.atp.checksum pcb frag, apdu := some y }
  /-- The link took the frame (R110). -/
  | sent (buf : Memory) (n : Nat) (bytes : List Byte) (rest : List WriteDraw) (hp : s.port = none)
      (hph : s.phase = .send) (hb : toBytes s.atp.checksum s.lastTx s.txBuf = .ok (buf, n))
      (hw : s.linkWr = .ok :: rest) :
      Move s { s.framed buf with
        linkWr := rest
        events := s.events ++ [.linkWrite bytes, .timerArm s.nbwt s.atp.bwt]
        phase := .wait }
  /-- The link failed to take it (R110, R165). -/
  | sendErr (buf : Memory) (n : Nat) (rest : List WriteDraw) (hp : s.port = none) (hph : s.phase = .send)
      (hb : toBytes s.atp.checksum s.lastTx s.txBuf = .ok (buf, n)) (hw : s.linkWr = .ioErr :: rest) :
      Move s ({ s.framed buf with linkWr := rest }.raise .io)
  /-- A block begins (R111). -/
  | present (buf : Memory) (rest : List ReadDraw) (hp : s.port = none) (hph : s.phase = .wait)
      (hb : memWrite s.rxBuf 0 [nadSeToHost] = .ok buf) (hl : pollLink s.linkRd = .present rest) :
      Move s { s with
        linkRd := rest
        nbwt := 1#8
        rxBuf := buf
        lastRx := { s.lastRx with nad := nadSeToHost }
        phase := .read }
  /-- The window ends (R111). -/
  | timeout (rest : List ReadDraw) (hp : s.port = none) (hph : s.phase = .wait)
      (hl : pollLink s.linkRd = .timeout rest) :
      Move s { s with linkRd := rest, nbwt := 1#8, rxLen := 0#9, phase := .eval }
  /-- The link fails while polling (R111, R165). -/
  | pollErr (rest : List ReadDraw) (hp : s.port = none) (hph : s.phase = .wait)
      (hl : pollLink s.linkRd = .err rest) : Move s ({ s with linkRd := rest, nbwt := 1#8 }.raise .io)
  /-- A read fails inside the block (R112, R165). -/
  | readErr (buf : Memory) (rest : List ReadDraw) (hp : s.port = none) (hph : s.phase = .read)
      (hb : s.rxBuf.wf = true → buf.wf = true ∧ buf.read 0 = s.rxBuf.read 0) : Move s (s.readFailed buf rest)
  /-- The block is there (R112). -/
  | received (buf : Memory) (rest : List ReadDraw) (hp : s.port = none) (hph : s.phase = .read)
      (hb : s.rxBuf.wf = true → buf.wf = true ∧ buf.read 0 = s.rxBuf.read 0 ∧ buf.read 2 ≠ 255#8) :
      Move s (s.received buf rest)
  /-- A block with LEN = 255 is there (R113). -/
  | receivedLong (buf : Memory) (rest : List ReadDraw) (hp : s.port = none) (hph : s.phase = .read)
      (hb : s.rxBuf.wf = true → buf.wf = true ∧ buf.read 0 = s.rxBuf.read 0) : Move s (s.receivedLong buf rest)
  /-- A response failure (R166 to R170). -/
  | failure (u : State) (hp : s.port = none) (hph : s.phase = .eval) (hd : ¬ dispatches s)
      (hu : u = s ∨ u = s.sumReceived) (hw : s.lastTx.pcb ≠ 0xCF#8) : Move s (inRecovery u)
  /-- A response failure inside the WARM_RESET action (R169). -/
  | failureWarm (u : State) (hp : s.port = none) (hph : s.phase = .eval) (hd : ¬ dispatches s)
      (hu : u = s ∨ u = s.sumReceived) (hw : s.lastTx.pcb = 0xCF#8) : Move s (u.raise .reset)
  /-- A consistent block's meaning (R145, R172); an R-block of the undefined kind moves like the R_OK of its N(R). -/
  | block (i : Instr) (t : State) (hd : dispatches s) (hi : isBlock i = true)
      (hf : decodeFields s.lastRx.pcb s.lastRx.len s.lastRx.data = .ok i ∨
        ∃ nr, i = .rOk nr ∧ decodeFields s.lastRx.pcb s.lastRx.len s.lastRx.data = .error (.undefinedErrKind nr))
      (hm : BlockMove i s.settled t) : Move s t

theorem decodeFields_isBlock {pcb len : Byte} {data : List Byte} {i : Instr}
    (h : decodeFields pcb len data = .ok i) : isBlock i = true := by
  unfold decodeFields decodeR decodeS at h
  repeat' split at h
  all_goals cases h
  all_goals rfl

theorem idlePhase_move {s t : State} (hp : s.port = none) (hph : s.phase = .idle) (h : idlePhase s = .next t) :
    Move s t := by
  unfold idlePhase at h
  split at h
  · rename_i ha
    cases h
    exact .stay hp (by simp [hph]) fun _ => ha
  · rename_i x ha
    split at h
    · cases h
    · rename_i o ho
      rcases resumeApdu_cases x o s with ⟨k, he⟩ | ⟨d, he⟩ | he | ⟨pcb, frag, y, hpcb, hl, he⟩ <;>
        rw [he] at h <;> cases h
      · exact .apduErr k hp hph
      · exact .apduDone d hp hph
      · exact .apduPart pcb frag x y hp hph ha hpcb hl

theorem sendPhase_move {s t : State} (hp : s.port = none) (hph : s.phase = .send) (h : sendPhase s = .next t) :
    Move s t := by
  unfold sendPhase at h
  split at h
  · cases h
  · rename_i hb
    split at h
    · cases h
    · split at h
      · cases h; exact .stay hp (by simp [hph]) (by simp [hph])
      · rename_i hw; cases h; exact .sendErr _ _ _ hp hph hb hw
      · rename_i hw; cases h; exact .sent _ _ _ _ hp hph hb hw

theorem waitPhase_move {s t : State} (hp : s.port = none) (hph : s.phase = .wait) (h : waitPhase s = .next t) :
    Move s t := by
  unfold waitPhase at h
  split at h
  · cases h; exact .discard hp hph
  · rename_i hl; cases h; exact .pollErr _ hp hph hl
  · rename_i hl; cases h; exact .timeout _ hp hph hl
  · rename_i hl
    split at h
    · cases h
    · rename_i hb; cases h; exact .present _ _ hp hph hb hl

theorem readRest_move {pcb len : Byte} {draws : List ReadDraw} {s t : State} (hp : s.port = none)
    (hph : s.phase = .read) (h : readRest pcb len draws s = .next t) : Move s t := by
  have w1 : ∀ {m m' : Memory} {off : Nat} {bs : List Byte}, 0 < off → memWrite m off bs = .ok m' → m.wf = true →
      m'.wf = true ∧ m'.read 0 = m.read 0 := by
    intro m m' off bs h0 h hw
    obtain ⟨rfl, hr⟩ := memWrite_ok h
    exact ⟨Memory.writeList_wf hw hr, Memory.read_writeList_of_lt hw hr h0⟩
  unfold readRest at h
  split at h
  · cases h
  · rename_i buf hb1
    split at h
    · cases h; exact .stay hp (by simp [hph]) (by simp [hph])
    · cases h; exact .readErr _ _ hp hph (w1 (by omega) hb1)
    · split at h
      · cases h
      · rename_i hb2
        cases h
        refine .readErr _ _ hp hph fun hw => ?_
        obtain ⟨a, b⟩ := w1 (by omega) hb1 hw
        obtain ⟨c, d⟩ := w1 (by omega) hb2 a
        exact ⟨c, d.trans b⟩
    · split at h
      · cases h
      · rename_i hbody buf' hb2
        split at h
        · cases h
          refine .receivedLong _ _ hp hph fun hw => ?_
          obtain ⟨a, b⟩ := w1 (by omega) hb1 hw
          obtain ⟨c, d⟩ := w1 (by omega) hb2 a
          exact ⟨c, d.trans b⟩
        · rename_i hlen
          split at h
          · cases h
          · rename_i hb3
            cases h
            refine .received _ _ hp hph fun hw => ?_
            obtain ⟨a, b⟩ := w1 (by omega) hb1 hw
            obtain ⟨c, d⟩ := w1 (by omega) hb2 a
            obtain ⟨e, f⟩ := w1 (by omega) hb3 c
            refine ⟨e, f.trans (d.trans b), ?_⟩
            obtain ⟨rfl, r1⟩ := memWrite_ok hb1
            obtain ⟨rfl, r2⟩ := memWrite_ok hb2
            obtain ⟨rfl, r3⟩ := memWrite_ok hb3
            rw [Memory.read_writeList_of_lt c r3 (by omega), Memory.read_writeList_of_lt a r2 (by omega),
              Memory.read_writeList hw r1]
            exact hlen

theorem readPhase_move {s t : State} (hp : s.port = none) (hph : s.phase = .read) (h : readPhase s = .next t) :
    Move s t := by
  unfold readPhase at h
  split at h
  · exact readRest_move hp hph h
  · cases h; exact .readErr _ _ hp hph fun hw => ⟨hw, rfl⟩
  · cases h; exact .stay hp (by simp [hph]) (by simp [hph])

theorem responseFailure_move {s u t : State} (hp : s.port = none) (hph : s.phase = .eval) (hd : ¬ dispatches s)
    (hu : u = s ∨ u = s.sumReceived) (h : responseFailure u = .next t) : Move s t := by
  have hl : u.lastTx = s.lastTx := by
    rcases hu with rfl | rfl
    · rfl
    · rw [sumReceived_eq]
  rw [responseFailure_eq] at h
  cases h
  split
  · rename_i hw; exact .failureWarm u hp hph hd hu (by rw [← hl, ← inWarmReset_iff]; exact hw)
  · rename_i hw; exact .failure u hp hph hd hu (by rw [← hl, Ne, ← inWarmReset_iff]; exact hw)

theorem evalPhase_move {s t : State} (hp : s.port = none) (hph : s.phase = .eval) (h : evalPhase s = .next t) :
    Move s t := by
  unfold evalPhase at h
  split at h
  · rename_i hr
    exact responseFailure_move hp hph (fun hd => hd.2.2.1 hr) (.inl rfl) h
  · rename_i hr
    split at h
    · rename_i hc
      exact responseFailure_move hp hph (fun hd => hc hd.2.2.2) (.inr rfl) h
    · rename_i hc
      have hd : dispatches s := ⟨hp, hph, hr, by simpa using hc⟩
      have hl : s.settled.lastRx = s.lastRx := by rw [settled_eq]
      unfold State.settled at hl
      unfold dispatchBlock at h
      rw [hl] at h
      split at h
      · rename_i i hi
        exact .block i t hd (decodeFields_isBlock hi) (.inl hi) (exec_blockMove (decodeFields_isBlock hi) h)
      · rename_i nr hn
        exact .block (.rOk nr) t hd rfl (.inr ⟨nr, rfl, hn⟩) (processR_move (.inl rfl) h)
      · cases h

theorem portPhase_move {c : CmdPort} {s t : State} (hp : s.port = some c) (h : portPhase c s = .next t) :
    Move s t := by
  rcases portPhase_cases c s with ⟨hc, he⟩ | ⟨hc, he⟩ | ⟨hc, he⟩ | ⟨hc, he⟩ <;> rw [he] at h
  · unfold execInit initOp acceptInit at h
    have hd : decodeCmd c = .ok (.init c.atpLoad) := by simp [decodeCmd, hc]
    cases hb : s.busy with
    | true =>
      have : ({ s with port := none } : State).busy = true := hb
      rw [this] at h; cases h
    | false =>
      have : ({ s with port := none } : State).busy = false := hb
      rw [this] at h
      simp only [Bool.false_eq_true, if_false] at h
      split at h
      · cases h; exact .initOk c _ hp hd hb
      · cases h; exact .initFailed c hp hd hb
  · unfold execXferPart xferPartOp at h
    split at h
    · cases h
    · rename_i ha
      obtain ⟨h1, h2⟩ := acceptXfer_none ha
      rcases startPart_cases c.cmd c.isLast { ({ s with port := none } : State) with outcome := none } with
        ⟨-, he⟩ | ⟨hl, pcb, hpcb, he⟩ <;> rw [he] at h <;> cases h
      exact .begin c pcb c.cmd s.apdu hp h1 h2 hpcb hl
  · unfold execXferApdu xferApduOp at h
    split at h
    · cases h
    · rename_i ha
      obtain ⟨h1, h2⟩ := acceptXfer_none ha
      split at h
      · cases h
      · rcases sendFragment_cases { cmd := c.cmd, off := 0, chunk := 0, out := [], side := .command, part := none }
          { ({ s with port := none } : State) with outcome := none } with
          ⟨-, he⟩ | ⟨pcb, frag, y, hpcb, hl, he⟩ <;> rw [he] at h <;> cases h
        exact .begin c pcb frag (some y) hp h1 h2 hpcb hl
  · cases h

/-- Every next state of a step is one of `Move`. -/
theorem step_move {s t : State} (h : step s = .next t) : Move s t := by
  cases hp : s.port with
  | some c => rw [step_port hp] at h; exact portPhase_move hp h
  | none =>
    cases hph : s.phase with
    | uninit => rw [step_uninit hp hph] at h; cases h; exact .stay hp (by simp [hph]) (by simp [hph])
    | idle => rw [step_idle hp hph] at h; exact idlePhase_move hp hph h
    | send => rw [step_send hp hph] at h; exact sendPhase_move hp hph h
    | wait => rw [step_wait hp hph] at h; exact waitPhase_move hp hph h
    | read => rw [step_read hp hph] at h; exact readPhase_move hp hph h
    | eval => rw [step_eval hp hph] at h; exact evalPhase_move hp hph h

end Sys2Proof.Machine
end

