-- ==== Sys2Proof/Laws/PerInstr.lean ====
section
/-! SUPPORT. Statements made for every instruction, one lemma per constructor. -/

namespace Sys2Proof.Laws.TableRow

/-- The mask and the match of the instruction's row in spec/opcode_table.json: of the PCB byte for a block, of the
2-bit operation code for a host operation. -/
def row : Instr → Nat × Nat
  | .i _ _ _ => (0x9F, 0x00)
  | .rOk _ => (0xEF, 0x80)
  | .rCkerr _ => (0xEF, 0x81)
  | .rOther _ => (0xEF, 0x82)
  | .sResynchReq => (0xFF, 0xC0)
  | .sResynchRsp => (0xFF, 0xE0)
  | .sIfsReq _ => (0xFF, 0xC1)
  | .sIfsRsp _ => (0xFF, 0xE1)
  | .sAbortReq => (0xFF, 0xC2)
  | .sAbortRsp => (0xFF, 0xE2)
  | .sWtxReq _ => (0xFF, 0xC3)
  | .sWtxRsp _ => (0xFF, 0xE3)
  | .sSwresetReq _ => (0xFF, 0xCF)
  | .sSwresetRsp _ => (0xFF, 0xEF)
  | .init _ => (0x03, 0x00)
  | .xferPart _ _ => (0x03, 0x01)
  | .xferApdu _ => (0x03, 0x02)

/-- The number that the table's mask and match apply to: byte 1 of a block, or the operation code. -/
def opcode : Encoded → Option Nat
  | .block (_ :: pcb :: _) => some pcb.toNat
  | .block _ => none
  | .port c => some c.cmdOp.toNat

/-- The instruction's words carry the opcode of its row, whatever its operands, under both epilogue kinds. -/
def Statement (i : Instr) : Prop :=
  ∀ k : ChecksumKind, ∃ n, opcode (encode k i) = some n ∧ n &&& (row i).1 = (row i).2

theorem pcbI_masked : ∀ (ns : Seq) (more : Bool), (encodePcbI ns more).toNat &&& 0x9F = 0x00 := by decide

theorem pcbR_masked : ∀ (nr : Seq) (e : BitVec 2), (encodePcbR nr e).toNat &&& 0xEF = 0x80 + e.toNat := by decide

theorem i (ns : Seq) (more : Bool) (data : List Byte) : Statement (.i ns more data) :=
  fun _ => ⟨_, rfl, pcbI_masked ns more⟩

theorem rOk (nr : Seq) : Statement (.rOk nr) := fun _ => ⟨_, rfl, pcbR_masked nr 0#2⟩

theorem rCkerr (nr : Seq) : Statement (.rCkerr nr) := fun _ => ⟨_, rfl, pcbR_masked nr 1#2⟩

theorem rOther (nr : Seq) : Statement (.rOther nr) := fun _ => ⟨_, rfl, pcbR_masked nr 2#2⟩

theorem sResynchReq : Statement .sResynchReq := fun _ => ⟨0xC0, rfl, (rfl : (0xC0 &&& 0xFF : Nat) = 0xC0)⟩

theorem sResynchRsp : Statement .sResynchRsp := fun _ => ⟨0xE0, rfl, (rfl : (0xE0 &&& 0xFF : Nat) = 0xE0)⟩

theorem sIfsReq (b : Byte) : Statement (.sIfsReq b) := fun _ => ⟨0xC1, rfl, (rfl : (0xC1 &&& 0xFF : Nat) = 0xC1)⟩

theorem sIfsRsp (b : Byte) : Statement (.sIfsRsp b) := fun _ => ⟨0xE1, rfl, (rfl : (0xE1 &&& 0xFF : Nat) = 0xE1)⟩

theorem sAbortReq : Statement .sAbortReq := fun _ => ⟨0xC2, rfl, (rfl : (0xC2 &&& 0xFF : Nat) = 0xC2)⟩

theorem sAbortRsp : Statement .sAbortRsp := fun _ => ⟨0xE2, rfl, (rfl : (0xE2 &&& 0xFF : Nat) = 0xE2)⟩

theorem sWtxReq (b : Byte) : Statement (.sWtxReq b) := fun _ => ⟨0xC3, rfl, (rfl : (0xC3 &&& 0xFF : Nat) = 0xC3)⟩

theorem sWtxRsp (b : Byte) : Statement (.sWtxRsp b) := fun _ => ⟨0xE3, rfl, (rfl : (0xE3 &&& 0xFF : Nat) = 0xE3)⟩

theorem sSwresetReq (data : List Byte) : Statement (.sSwresetReq data) := fun _ => ⟨0xCF, rfl, (rfl : (0xCF &&& 0xFF : Nat) = 0xCF)⟩

theorem sSwresetRsp (data : List Byte) : Statement (.sSwresetRsp data) := fun _ => ⟨0xEF, rfl, (rfl : (0xEF &&& 0xFF : Nat) = 0xEF)⟩

theorem init (load : Option Atp) : Statement (.init load) := fun _ => ⟨0, rfl, (rfl : (0 &&& 0x03 : Nat) = 0)⟩

theorem xferPart (cmd : List Byte) (isLast : Bool) : Statement (.xferPart cmd isLast) :=
  fun _ => ⟨1, rfl, (rfl : (1 &&& 0x03 : Nat) = 1)⟩

theorem xferApdu (cmd : List Byte) : Statement (.xferApdu cmd) := fun _ => ⟨2, rfl, (rfl : (2 &&& 0x03 : Nat) = 2)⟩

end Sys2Proof.Laws.TableRow
end

