-- ==== Sys2Proof/Tests/Slice0.lean ====
section
/-! SUPPORT. Tests. Expected values are the spec's: 95_test_vectors.md sections 2.1 to 2.9, and the worked examples of
the rules named. The witnesses at the end show states that meet the hypotheses of the statements together. -/

set_option Elab.async false

namespace Sys2Proof.Tests

open Sys2Proof.Machine Sys2Proof.Safety

/-- The state after reset and INIT with the ATP of the vectors' programs (95_test_vectors.md part 3). -/
def base : State := { State.reset with
  phase := .idle
  initialized := true
  firstTransmission := true
  ifsd := 254#8
  nbwt := 1#8
  atp := { checksum := .crc, ifsc := 254#8, ifsd := 254#8, bwt := 300, msf := 1000 } }

/-- `base` after sending `orig`, an I-block or a solicitation. -/
def sent (pcb : Byte) (data : List Byte) : State :=
  { base with orig := built .crc pcb data, lastTx := built .crc pcb data }

/-- The block in RXBUF and `last_rx`, as READ_TPDU leaves it. -/
def received (bytes : List Byte) (s : State) : State :=
  let buf := Memory.writeList [] 0 bytes
  { s with phase := .eval, rxBuf := buf, lastRx := parse s.atp.checksum buf, rxLen := BitVec.ofNat 9 bytes.length }

/-- The next state of a step. -/
def next? : Host.Outcome State Fault Refusal → Option State
  | .next s => some s
  | .fault _ => none
  | .refused _ => none

/-- A field of the state after one step. -/
def after {α : Type} (s : State) (f : State → α) : Option α := (next? (step s)).map f

theorem after_some {α : Type} {s : State} {f : State → α} {v : α} (h : after s f = some v) :
    ∃ t, step s = .next t ∧ f t = v := by
  unfold after next? at h
  split at h
  · rename_i t ht; exact ⟨t, ht, by simpa using h⟩
  · cases h
  · cases h

/-- The command of P2: MANAGE CHANNEL OPEN. -/
def openCmd : List Byte := [0x00#8, 0x70#8, 0x00#8, 0x00#8, 0x01#8]

/-- The frame that goes out next. -/
def out (s : State) : List Byte := image s.atp.checksum s.lastTx.nad s.lastTx.pcb s.lastTx.data

/-! ### WellFormed refuses -/

/-- LEN 255 (R60). -/
theorem test_wf_refuses_long_i : (Instr.i 0#1 false (List.replicate 255 0x00#8)).wf = false := by decide +kernel

theorem test_wf_refuses_long_swreset_req :
    (Instr.sSwresetReq (List.replicate 255 0x00#8)).wf = false := by
  decide +kernel

theorem test_wf_refuses_long_swreset_rsp :
    (Instr.sSwresetRsp (List.replicate 255 0x00#8)).wf = false := by
  decide +kernel

theorem test_wf_refuses_long_part : (Instr.xferPart (List.replicate 255 0x00#8) true).wf = false := by decide +kernel

/-- R127. -/
theorem test_wf_refuses_empty_apdu : (Instr.xferApdu []).wf = false := by decide +kernel

theorem test_wf_takes_254 : (Instr.i 1#1 true (List.replicate 254 0xFF#8)).wf = true := by decide +kernel

/-! ### Decoding: words of the rules' worked examples and of 95_test_vectors.md -/

theorem test_decode_i :
    decode .crc (.block [0x12#8, 0x20#8, 0x02#8, 0xAA#8, 0xBB#8, 0x83#8, 0x0E#8]) =
      .ok (.i 0#1 true [0xAA#8, 0xBB#8]) := by
  decide +kernel

theorem test_decode_i_ns :
    decode .crc (.block [0x12#8, 0x40#8, 0x03#8, 0xCC#8, 0x90#8, 0x00#8, 0xE2#8, 0xEF#8]) =
      .ok (.i 1#1 false [0xCC#8, 0x90#8, 0x00#8]) := by
  decide +kernel

theorem test_decode_rOk :
    decode .crc (.block [0x12#8, 0x90#8, 0x00#8, 0xBC#8, 0xEF#8]) = .ok (.rOk 1#1) := by
  decide +kernel

theorem test_decode_rOther :
    decode .crc (.block [0x12#8, 0x82#8, 0x00#8, 0x9D#8, 0x49#8]) = .ok (.rOther 0#1) := by
  decide +kernel

theorem test_decode_sResynchReq :
    decode .crc (.block [0x12#8, 0xC0#8, 0x00#8, 0x4B#8, 0x3C#8]) = .ok .sResynchReq := by
  decide +kernel

theorem test_decode_sResynchRsp :
    decode .crc (.block [0x12#8, 0xE0#8, 0x00#8, 0x78#8, 0x1F#8]) = .ok .sResynchRsp := by
  decide +kernel

theorem test_decode_sIfsReq :
    decode .crc (.block [0x12#8, 0xC1#8, 0x01#8, 0x80#8, 0x9F#8, 0xCB#8]) = .ok (.sIfsReq 0x80#8) := by
  decide +kernel

theorem test_decode_sIfsRsp :
    decode .crc (.block [0x12#8, 0xE1#8, 0x01#8, 0x80#8, 0xA4#8, 0xC8#8]) = .ok (.sIfsRsp 0x80#8) := by
  decide +kernel

theorem test_decode_sAbortReq :
    decode .crc (.block [0x12#8, 0xC2#8, 0x00#8, 0xFB#8, 0x0F#8]) = .ok .sAbortReq := by
  decide +kernel

theorem test_decode_sAbortRsp :
    decode .crc (.block [0x12#8, 0xE2#8, 0x00#8, 0xC8#8, 0x2C#8]) = .ok .sAbortRsp := by
  decide +kernel

theorem test_decode_sWtxReq :
    decode .crc (.block [0x12#8, 0xC3#8, 0x01#8, 0x05#8, 0x82#8, 0xAD#8]) = .ok (.sWtxReq 0x05#8) := by
  decide +kernel

theorem test_decode_sWtxRsp :
    decode .crc (.block [0x12#8, 0xE3#8, 0x01#8, 0x05#8, 0xB9#8, 0xAE#8]) = .ok (.sWtxRsp 0x05#8) := by
  decide +kernel

theorem test_decode_sSwresetReq :
    decode .crc (.block [0x12#8, 0xCF#8, 0x00#8, 0x83#8, 0xBF#8]) = .ok (.sSwresetReq []) := by
  decide +kernel

theorem test_decode_sSwresetRsp :
    decode .crc (.block [0x12#8, 0xEF#8, 0x02#8, 0x01#8, 0x02#8, 0xBE#8, 0xE4#8]) =
      .ok (.sSwresetRsp [0x01#8, 0x02#8]) := by
  decide +kernel

/-- `100 nr 00 01` under LRC (R65, R94). -/
theorem test_decode_rCkerr :
    decode .lrc (.block [0x12#8, 0b10010001#8, 0x00#8, 0x83#8]) = .ok (.rCkerr 1#1) := by
  decide +kernel

/-- R81. -/
theorem test_decode_init :
    decode .crc (.port { cmdOp := 0b00#2, cmd := [], isLast := false, atpLoad := some base.atp }) =
      .ok (.init (some base.atp)) := by
  decide +kernel

theorem test_decode_xferPart :
    decode .crc (.port { cmdOp := 0b01#2, cmd := openCmd, isLast := true, atpLoad := none }) =
      .ok (.xferPart openCmd true) := by
  decide +kernel

theorem test_decode_xferApdu :
    decode .crc (.port { cmdOp := 0b10#2, cmd := openCmd, isLast := false, atpLoad := none }) =
      .ok (.xferApdu openCmd) := by
  decide +kernel

/-- 95_test_vectors.md 2.4. -/
theorem test_decode_refuses_reserved_bit : decodeFields 0x10#8 0x00#8 [] = .error .reservedBits := by decide +kernel

theorem test_decode_refuses_unknown_type : decodeFields 0xC7#8 0x00#8 [] = .error .unknownSType := by decide +kernel

theorem test_decode_names_error_kind_3 :
    decodeFields 0x83#8 0x00#8 [] = .error (.undefinedErrKind 0#1) := by
  decide +kernel

theorem test_decode_refuses_bad_crc :
    decode .crc (.block [0x12#8, 0x00#8, 0x02#8, 0x90#8, 0x00#8, 0x5A#8, 0xC0#8]) = .error .badChecksum := by
  decide +kernel

theorem test_decode_refuses_truncated :
    decode .crc (.block [0x12#8, 0x90#8, 0x00#8, 0xBC#8]) = .error .truncated := by
  decide +kernel

/-! ### The table's words: the decoder's answer and the first step after reset (log entries 5 and 6) -/

def tableRows : List (Nat × Instr) :=
  [(0x20, .i 0#1 true []), (0x80, .rOk 0#1), (0x81, .rCkerr 0#1), (0x82, .rOther 0#1),
   (0xC0, .sResynchReq), (0xE0, .sResynchRsp), (0xC1, .sIfsReq 0#8), (0xE1, .sIfsRsp 0#8), (0xC2, .sAbortReq),
   (0xE2, .sAbortRsp), (0xC3, .sWtxReq 0#8), (0xE3, .sWtxRsp 0#8), (0xCF, .sSwresetReq []), (0xEF, .sSwresetRsp []),
   (0x01, .xferPart [] false), (0x02, .xferApdu [0#8])]

theorem test_table_words_decode : tableRows.all (fun r => decodeTableWord 8 r.1 = some r.2) = true := by decide +kernel

theorem test_table_word_of_init :
    (decodeTableWord 8 0x00).isSome = true ∧ decodeTableWord 8 0x03 = none := by
  decide +kernel

theorem test_table_words_run :
    tableRows.all (fun r => (next? (step (State.reset.withFetchWord 8 r.1))).isSome) = true := by
  decide +kernel

theorem test_table_word_of_init_runs :
    after (State.reset.withFetchWord 8 0x00) (·.initialized) = some true := by
  decide +kernel

/-! ### Checksums (2.1, 2.2) -/

theorem test_crc_of_apdu :
    crc16 [0x00#8, 0x00#8, 0x0A#8, 0x00#8, 0xA4#8, 0x04#8, 0x00#8, 0x05#8, 0xA0#8, 0x00#8, 0x00#8, 0x01#8, 0x51#8] =
      0x6621#16 := by
  decide +kernel

theorem test_lrc_of_254_ff : lrc (0x00#8 :: 0x00#8 :: 0xFE#8 :: List.replicate 254 0xFF#8) = 0xFE#8 := by decide +kernel

theorem test_lrc_of_apdu :
    lrc [0x00#8, 0x00#8, 0x0A#8, 0x00#8, 0xA4#8, 0x04#8, 0x00#8, 0x05#8, 0xA0#8, 0x00#8, 0x00#8, 0x01#8, 0x51#8] =
      0x5F#8 := by
  decide +kernel

/-! ### Consistency (2.7) -/

theorem test_check_passes :
    consistent (received [0x12#8, 0x00#8, 0x02#8, 0x90#8, 0x00#8, 0x5A#8, 0xC1#8] (sent 0x00#8 openCmd)) = 0 := by
  decide +kernel

theorem test_check_bad_sum :
    consistent (received [0x12#8, 0x00#8, 0x02#8, 0x90#8, 0x00#8, 0x5A#8, 0xC0#8] (sent 0x00#8 openCmd)) = 1 := by
  decide +kernel

theorem test_check_reserved_bit :
    consistent (received [0x12#8, 0xA2#8, 0x00#8, 0xAE#8, 0x6A#8] (sent 0x00#8 openCmd)) = 2 := by
  decide +kernel

theorem test_check_r_with_data :
    consistent (received [0x12#8, 0x80#8, 0x01#8, 0x00#8, 0x3D#8, 0x13#8] (sent 0x00#8 openCmd)) = 3 := by
  decide +kernel

theorem test_check_wtx_without_data :
    consistent (received [0x12#8, 0xC3#8, 0x00#8, 0x23#8, 0x16#8] (sent 0x00#8 openCmd)) = 3 := by
  decide +kernel

theorem test_check_unknown_type :
    consistent (received [0x12#8, 0xC7#8, 0x00#8, 0x43#8, 0x71#8] (sent 0x00#8 openCmd)) = 3 := by
  decide +kernel

theorem test_check_ns :
    consistent (received [0x12#8, 0x40#8, 0x02#8, 0x90#8, 0x00#8, 0xED#8, 0xD7#8] (sent 0x00#8 openCmd)) = 4 := by
  decide +kernel

theorem test_check_nr :
    consistent (received [0x12#8, 0x90#8, 0x00#8, 0xBC#8, 0xEF#8] (sent 0x00#8 openCmd)) = 4 := by
  decide +kernel

theorem test_check_nr_of_chained :
    consistent (received [0x12#8, 0x90#8, 0x00#8, 0xBC#8, 0xEF#8] (sent 0x20#8 openCmd)) = 0 := by
  decide +kernel

theorem test_check_not_our_response :
    consistent (received [0x12#8, 0xC3#8, 0x01#8, 0x02#8, 0x3D#8, 0xD9#8] { base with lastTx := built .crc 0xC0#8 [] }) =
      5 := by
  decide +kernel

/-! ### The exchange (2.5) -/

theorem test_send_frame :
    after { sent 0xC0#8 [] with phase := .send, linkWr := [.ok] } (fun s => (s.events.head?, s.phase)) =
      some (some (.linkWrite [0x00#8, 0xC0#8, 0x00#8, 0x66#8, 0x0C#8]), .wait) := by
  decide +kernel

theorem test_wait_discards :
    after { base with phase := .wait, linkRd := [.byte 0x00#8, .byte 0xFF#8, .byte 0x37#8, .byte 0x12#8] }
        (fun s => (s.phase, s.rxBuf, s.linkRd)) = some (.read, [(0, 0x12#8)], []) := by
  decide +kernel

theorem test_wait_timeout :
    after { base with phase := .wait, nbwt := 5#8, linkRd := [.byte 0x00#8, .expired] }
      (fun s => (s.phase, s.rxLen, s.nbwt)) = some (.eval, 0#9, 1#8) := by
  decide +kernel

theorem test_read_block :
    after { base with
        phase := .read
        rxBuf := [(0, 0x12#8)]
        linkRd := [0x40#8, 0x03#8, 0xCC#8, 0x90#8, 0x00#8, 0xE2#8, 0xEF#8].map .byte }
      (fun s => (s.rxLen, s.lastRx)) = some (8#9,
        { nad := 0x12#8, pcb := 0x40#8, len := 0x03#8, data := [0xCC#8, 0x90#8, 0x00#8], checksum := 0xEFE2#16 }) := by
  decide +kernel

theorem test_read_long :
    after { base with
        phase := .read
        rxBuf := [(0, 0x12#8)]
        linkRd := .byte 0x00#8 :: .byte 0xFF#8 :: List.replicate 257 (.byte 0x55#8) }
      (fun s => (s.rxLen, s.lastRx.len, s.linkRd, s.rxBuf.length)) = some (260#9, 0xFF#8, [], 256) := by
  decide +kernel

/-! ### Received blocks (2.8) -/

theorem test_rx_i :
    after (received [0x12#8, 0x20#8, 0x02#8, 0xAA#8, 0xBB#8, 0x83#8, 0x0E#8]
        (sent 0x00#8 openCmd))
      (fun s => (s.nsMaster, s.nsSlave, s.outcome)) =
      some (1#1, 1#1, some (.respMore [0xAA#8, 0xBB#8])) := by
  decide +kernel

theorem test_rx_i_solicited :
    after (received [0x12#8, 0x40#8, 0x03#8, 0xCC#8, 0x90#8, 0x00#8, 0xE2#8, 0xEF#8]
        { sent 0x90#8 [] with nsMaster := 1#1, nsSlave := 1#1 })
      (fun s => (s.nsMaster, s.nsSlave, s.outcome)) =
      some (1#1, 0#1, some (.respFinal [0xCC#8, 0x90#8, 0x00#8])) := by
  decide +kernel

theorem test_rx_rOk_ack :
    after (received [0x12#8, 0x80#8, 0x00#8, 0x2D#8, 0x7A#8]
        { sent 0x60#8 openCmd with nsMaster := 1#1 })
      (fun s => (s.nsMaster, s.nsSlave, s.outcome)) =
      some (0#1, 0#1, some .ack) := by
  decide +kernel

theorem test_rx_rOk_resend :
    after (received [0x12#8, 0x80#8, 0x00#8, 0x2D#8, 0x7A#8]
        (sent 0x00#8 openCmd))
      (fun s => (s.phase, out s)) =
      some (.send, [0x00#8, 0x00#8, 0x05#8, 0x00#8, 0x70#8, 0x00#8, 0x00#8, 0x01#8, 0x38#8, 0xDC#8]) := by
  decide +kernel

theorem test_rx_rOther :
    after (received [0x12#8, 0x82#8, 0x00#8, 0x9D#8, 0x49#8]
        (sent 0x00#8 openCmd))
      (fun s => (s.phase, out s)) =
      some (.send, [0x00#8, 0x00#8, 0x05#8, 0x00#8, 0x70#8, 0x00#8, 0x00#8, 0x01#8, 0x38#8, 0xDC#8]) := by
  decide +kernel

theorem test_rx_rCkerr :
    (next? (exec (.rCkerr 1#1) (sent 0x20#8 openCmd))).map (fun s => (s.nsMaster, s.outcome)) =
      some (1#1, some .ack) := by
  decide +kernel

theorem test_rx_wtx :
    after (received [0x12#8, 0xC3#8, 0x01#8, 0x05#8, 0x82#8, 0xAD#8]
        (sent 0x00#8 openCmd))
      (fun s => (s.nbwt, out s)) =
      some (5#8, [0x00#8, 0xE3#8, 0x01#8, 0x05#8, 0x6E#8, 0x54#8]) := by
  decide +kernel

theorem test_rx_wtx_zero :
    after (received [0x12#8, 0xC3#8, 0x01#8, 0x00#8, 0x2F#8, 0xFA#8]
        (sent 0x00#8 openCmd))
      (fun s => (s.nbwt, out s)) =
      some (0#8, [0x00#8, 0xE3#8, 0x01#8, 0x00#8, 0xC3#8, 0x03#8]) := by
  decide +kernel

theorem test_rx_ifs :
    after (received [0x12#8, 0xC1#8, 0x01#8, 0x80#8, 0x9F#8, 0xCB#8]
        (sent 0x00#8 openCmd))
      (fun s => (s.atp.ifsc, out s)) =
      some (0x80#8, [0x00#8, 0xE1#8, 0x01#8, 0x80#8, 0x73#8, 0x32#8]) := by
  decide +kernel

theorem test_rx_resynch_req :
    after (received [0x12#8, 0xC0#8, 0x00#8, 0x4B#8, 0x3C#8]
        { sent 0x40#8 openCmd with nsMaster := 1#1, nsSlave := 1#1 })
      (fun s => (s.nsMaster, s.nsSlave, s.orig.pcb, out s)) =
      some (0#1, 0#1, 0x40#8, [0x00#8, 0xE0#8, 0x00#8, 0x55#8, 0x2F#8]) := by
  decide +kernel

theorem test_rx_resynch_rsp :
    after (received [0x12#8, 0xE0#8, 0x00#8, 0x78#8, 0x1F#8]
        { sent 0x40#8 openCmd with nsMaster := 1#1, nsSlave := 1#1 })
      (fun s => (s.nsMaster, s.orig.checksum, out s)) =
      some (0#1, 0xDC38#16, [0x00#8, 0x00#8, 0x05#8, 0x00#8, 0x70#8, 0x00#8, 0x00#8, 0x01#8, 0x38#8, 0xDC#8]) := by
  decide +kernel

theorem test_rx_resynch_rsp_r :
    after (received [0x12#8, 0xE0#8, 0x00#8, 0x78#8, 0x1F#8]
        { sent 0x90#8 [] with nsSlave := 1#1 })
      (fun s => (s.nsSlave, out s)) =
      some (0#1, [0x00#8, 0x80#8, 0x00#8, 0x00#8, 0x4A#8]) := by
  decide +kernel

theorem test_rx_swreset_rsp :
    after (received [0x12#8, 0xEF#8, 0x02#8, 0x01#8, 0x02#8, 0xBE#8, 0xE4#8]
        { sent 0x00#8 openCmd with nsMaster := 1#1, nsSlave := 1#1 })
      (fun s => (s.outcome, s.phase, s.events, s.nsMaster)) =
      some (some (.err .reset), .idle, [], 0#1) := by
  decide +kernel

theorem test_rx_abort_req :
    after (received [0x12#8, 0xC2#8, 0x00#8, 0xFB#8, 0x0F#8]
        { sent 0x00#8 openCmd with nsMaster := 1#1, nsSlave := 1#1 })
      (fun s => (s.outcome, s.phase, s.events, s.nsMaster)) =
      some (some (.err .reset), .idle, [], 1#1) := by
  decide +kernel

theorem test_rx_abort_rsp :
    after (received [0x12#8, 0xE2#8, 0x00#8, 0xC8#8, 0x2C#8]
        { sent 0x00#8 openCmd with nsMaster := 1#1, nsSlave := 1#1 })
      (fun s => (s.outcome, s.phase, s.events, s.nsMaster)) =
      some (some (.err .reset), .idle, [], 1#1) := by
  decide +kernel

theorem test_rx_wtx_rsp :
    after (received [0x12#8, 0xE3#8, 0x01#8, 0x05#8, 0xB9#8, 0xAE#8]
        { sent 0x00#8 openCmd with nsMaster := 1#1, nsSlave := 1#1 })
      (fun s => (s.outcome, s.phase, s.events, s.nsMaster)) =
      some (some (.err .reset), .idle, [], 1#1) := by
  decide +kernel

theorem test_rx_ifs_rsp :
    after (received [0x12#8, 0xE1#8, 0x01#8, 0x80#8, 0xA4#8, 0xC8#8]
        { sent 0x00#8 openCmd with nsMaster := 1#1, nsSlave := 1#1 })
      (fun s => (s.outcome, s.phase, s.events, s.nsMaster)) =
      some (some (.err .reset), .idle, [], 1#1) := by
  decide +kernel

theorem test_rx_swreset_req :
    after (received [0x12#8, 0xCF#8, 0x00#8, 0x83#8, 0xBF#8]
        { sent 0x00#8 openCmd with nsMaster := 1#1, nsSlave := 1#1 })
      (fun s => (s.outcome, s.phase, s.events, s.nsMaster)) =
      some (some (.err .reset), .idle, [], 1#1) := by
  decide +kernel

/-! ### Host operations (2.6) -/

theorem test_op_init :
    after { State.reset with
        port := some { cmdOp := 0#2, cmd := [], isLast := false, atpLoad := some base.atp } }
      (fun s => (s.outcome, s.phase, s.firstTransmission, s.ifsd)) =
      some (some .ok, .idle, true, 254#8) := by
  decide +kernel

theorem test_op_init_fails :
    after { base with
        port := some { cmdOp := 0#2, cmd := [], isLast := false, atpLoad := none } }
      (fun s => (s.outcome, s.phase, s.initialized)) =
      some (some (.err .io), .uninit, false) := by
  decide +kernel

theorem test_op_part :
    after { { base with nsMaster := 1#1 } with
        port := some { cmdOp := 1#2, cmd := [0x05#8, 0x01#8, 0x02#8, 0x03#8], isLast := false, atpLoad := none } }
      (fun s => (s.phase, out s)) =
      some (.send, [0x00#8, 0x60#8, 0x04#8, 0x05#8, 0x01#8, 0x02#8, 0x03#8, 0x71#8, 0x13#8]) := by
  decide +kernel

theorem test_op_part_empty :
    after { { base with nsSlave := 1#1 } with
        port := some { cmdOp := 1#2, cmd := [], isLast := true, atpLoad := none } }
      out =
      some ([0x00#8, 0x90#8, 0x00#8, 0x91#8, 0xDF#8]) := by
  decide +kernel

theorem test_op_apdu :
    after { { base with atp := { base.atp with ifsc := 4#8 } } with
        port := some { cmdOp := 2#2, cmd := (List.range 8).map (BitVec.ofNat 8), isLast := true, atpLoad := none } }
      (fun s => (s.orig.pcb, s.orig.data.length)) =
      some (0x20#8, 4) := by
  decide +kernel

/-- An exact multiple of the fragment size ends with a full last fragment (R127). -/
theorem test_op_apdu_last :
    after { base with
        atp := { base.atp with ifsc := 4#8 }
        apdu := some
          { cmd := (List.range 8).map (BitVec.ofNat 8), off := 0, chunk := 4, out := [], side := .command,
            part := some .ack } }
      (fun s => (s.orig.pcb, s.orig.data.length)) = some (0x00#8, 4) := by
  decide +kernel

/-! ### Recovery (2.9) -/

theorem test_recovery_resend :
    after { sent 0x00#8 openCmd with phase := .eval, nsSlave := 1#1 } (fun s => (s.recovery, out s)) =
      some (.resend1, [0x00#8, 0x92#8, 0x00#8, 0x21#8, 0xEC#8]) := by
  decide +kernel

theorem test_recovery_warm :
    after { sent 0x00#8 openCmd with phase := .eval, recovery := .resend2 } (fun s => (s.events, out s)) =
      some ([.atpCacheDelete], [0x00#8, 0xCF#8, 0x00#8, 0xAE#8, 0x8F#8]) := by
  decide +kernel

/-! ### Witnesses: states and operands that meet the statements' hypotheses together -/

/-- The invariant from its decidable parts, for a state with no XFER_APDU in progress. -/
theorem inv_of {s : State} (h : s.txBuf.wf = true ∧ s.rxBuf.wf = true ∧ s.orig.wf = true ∧ s.lastTx.wf = true ∧
    s.orig.nad = 0x00#8 ∧ s.lastTx.nad = 0x00#8 ∧ s.orig.pcb ∈ origPcbs ∧ s.lastTx.pcb ∈ sentPcbs)
    (h' : s.initialized = true ∧ s.phase = .eval ∧ s.ifsd = 254#8 ∧ s.nbwt = 1#8 ∧ s.lastRx.nad = 0x12#8 ∧
      s.rxLen = BitVec.ofNat 9 (3 + s.lastRx.len.toNat + epilogueLen s.atp.checksum) ∧
      s.lastRx = parse s.atp.checksum s.rxBuf ∧ s.apdu = none ∧ s.outcome = none) : Inv s := by
  obtain ⟨a1, a2, a3, a4, a5, a6, a7, a8⟩ := h
  obtain ⟨b1, b2, b3, b4, b5, b6, b7, b8, b9⟩ := h'
  constructor <;> simp_all

/-- A WTX request has been received as the answer to an I-block (P3). -/
def wtxState : State := received [0x12#8, 0xC3#8, 0x01#8, 0x05#8, 0x82#8, 0xAD#8] (sent 0x00#8 openCmd)

/-- An R-block with error kind 11 has been received (2.7). -/
def undefinedState : State := received [0x12#8, 0x83#8, 0x00#8, 0x45#8, 0x50#8] (sent 0x00#8 openCmd)

/-- A SWRESET response has been received in the WARM_RESET action (2.7). -/
def warmState : State :=
  received [0x12#8, 0xEF#8, 0x02#8, 0x01#8, 0x02#8, 0xBE#8, 0xE4#8]
    { sent 0x00#8 openCmd with lastTx := built .crc 0xCF#8 [], recovery := .warmReset }

/-- The answer to an I-block did not come. -/
def silentState : State := { sent 0x00#8 openCmd with phase := .eval }

theorem inv_of_wtx : Inv wtxState := inv_of (by decide +kernel) (by decide +kernel)

theorem dispatches_wtx : dispatches wtxState := ⟨rfl, rfl, by decide +kernel, by decide +kernel⟩

/-- Encoding: a well-formed block at the largest LEN, and its words. -/
theorem test_witness_encode :
    (Instr.i 1#1 true (List.replicate 254 0xFF#8)).wf = true ∧
    ∀ d, ∃ bs, encode .lrc (.i 1#1 true d) = .block bs :=
  ⟨by decide +kernel, fun _ => ⟨_, rfl⟩⟩

theorem test_witness_decoded_fields : decodeFields 0x60#8 0x01#8 [0x05#8] = .ok (.i 1#1 true [0x05#8]) := rfl

/-- Classification: a byte of each kind, at the ends of the ranges. -/
theorem test_witness_classify :
    (0x7F#8).getLsbD 7 = false ∧ ((0x80#8).getLsbD 7 = true ∧ (0x80#8).getLsbD 6 = false) ∧
    ((0xBF#8).getLsbD 7 = true ∧ (0xBF#8).getLsbD 6 = false) ∧ (0xC0#8).getLsbD 7 = true ∧
    (0xC0#8).getLsbD 6 = true := by decide

theorem test_witness_changed_byte : (0x00#8 : Byte) ≠ 0x80#8 := by decide

theorem test_witness_perm : List.Perm [0x00#8, 0x82#8, (0x00#8 : Byte)] [0x82#8, 0x00#8, 0x00#8] := by decide

/-- FORM_TPDU: an operand of each clause, at the boundary. -/
theorem test_witness_formTpdu :
    254 < (0xFF#8 : Byte).toNat ∧ (List.replicate 254 (0x00#8 : Byte)).length = (0xFE#8 : Byte).toNat ∧
    ([] : List Byte).length ≠ (0x01#8 : Byte).toNat := by decide +kernel

/-- TO_BYTES: an empty block and the longest, in an empty buffer. -/
theorem test_witness_toBytes :
    Memory.wf [] = true ∧ (built .crc 0x00#8 []).wf = true ∧
    (built .crc 0x00#8 (List.replicate 254 0x01#8)).wf = true ∧
    (∃ m n, toBytes .crc (built .crc 0x00#8 []) [] = .ok (m, n)) :=
  ⟨rfl, by decide +kernel, built_wf _ _ (by rw [List.length_replicate]), _, _, rfl⟩

theorem test_witness_roundTrip :
    base.atp.checksum = .crc ∧ ∃ t s', formTpdu 0x12#8 0xBF#8 0x00#8 [] base = .ok (t, s') := ⟨rfl, _, _, rfl⟩

/-- R-blocks: a state of each of the four cases (R147). -/
theorem test_witness_rBlock :
    (blockKind (sent 0x20#8 openCmd).orig.pcb = .I ∧ (sent 0x20#8 openCmd).orig.pcb.getLsbD 5 = true ∧
      (1#1 : Seq) = (sent 0x20#8 openCmd).nsMaster ^^^ 1#1 ∧ (0#1 : Seq) = (sent 0x20#8 openCmd).nsMaster) ∧
    ¬ (blockKind (sent 0x00#8 openCmd).orig.pcb = .I ∧ (sent 0x00#8 openCmd).orig.pcb.getLsbD 5 = true) ∧
    (0#1 : Seq) = (sent 0x00#8 openCmd).nsMaster ∧ (1#1 : Seq) ≠ (sent 0x00#8 openCmd).nsMaster := by
  decide +kernel

/-- RESYNCH response: an original block of each of the three cases (R153). -/
theorem test_witness_resynchRsp :
    ((sent 0x40#8 openCmd).orig.wf = true ∧ blockKind (sent 0x40#8 openCmd).orig.pcb = .I ∧
      (sent 0x40#8 openCmd).orig.pcb.getLsbD 6 = true) ∧
    ((sent 0x90#8 []).orig.wf = true ∧ blockKind (sent 0x90#8 []).orig.pcb = .R ∧
      (sent 0x90#8 []).orig.pcb.getLsbD 4 = true) ∧
    (sent 0x20#8 openCmd).orig.wf = true ∧
    ¬ (blockKind (sent 0x20#8 openCmd).orig.pcb = .I ∧ (sent 0x20#8 openCmd).orig.pcb.getLsbD 6 = true) ∧
    ¬ (blockKind (sent 0x20#8 openCmd).orig.pcb = .R ∧ (sent 0x20#8 openCmd).orig.pcb.getLsbD 4 = true) := by
  decide +kernel

/-- A block that leaves `recovery`, and the R-block that advances it (R147's last case). -/
theorem test_witness_blockFrame :
    (isBlock (.sWtxReq 0x05#8) = true ∧ ∃ t, exec (.sWtxReq 0x05#8) base = .next t) ∧ isBlock (.rOk 1#1) = true ∧
    ∃ t, exec (.rOk 1#1) (sent 0x00#8 openCmd) = .next t ∧ t.recovery = .resend1 :=
  ⟨⟨rfl, _, rfl⟩, rfl, _, rfl, rfl⟩

/-- INIT: idle and uninitialised states are not busy; one record of each checksum kind. -/
theorem test_witness_init :
    base.busy = false ∧ State.reset.busy = false ∧ State.reset.atp.checksum = .lrc ∧ base.atp.checksum = .crc ∧
    ({ base with atp := State.reset.atp } : State).phase = .idle := by decide

/-- XFER_PART and XFER_APDU: commands at the limit, one byte under and one over it. -/
theorem test_witness_xfer :
    base.phase = .idle ∧ base.apdu = none ∧ List.replicate 254 (0x00#8 : Byte) ≠ [] ∧
    (List.replicate 254 (0x00#8 : Byte)).length ≤ min base.atp.ifsc.toNat 254 ∧ base.atp.ifsc ≠ 0#8 ∧
    ¬ min base.atp.ifsc.toNat 254 < (List.replicate 254 (0x00#8 : Byte)).length ∧
    min base.atp.ifsc.toNat 254 < (List.replicate 255 (0x00#8 : Byte)).length := by decide +kernel

/-- An XFER_APDU whose part has ended with `o`. -/
def apduState (side : ApduSide) (o : OpOutcome) : State := { base with
  apdu := some { cmd := openCmd, off := 0, chunk := 4, out := [0x01#8], side := side, part := some o } }

/-- The wrapper: a state for each kind of outcome on each side, and bytes left to send. -/
theorem test_witness_wrapper (side : ApduSide) (o : OpOutcome) :
    (apduState side o).port = none ∧ (apduState side o).phase = .idle ∧
    (apduState side o).apdu =
      some { cmd := openCmd, off := 0, chunk := 4, out := [0x01#8], side := side, part := some o } ∧
    openCmd.drop (0 + 4) ≠ [] ∧ (apduState side o).atp.ifsc ≠ 0#8 :=
  ⟨rfl, rfl, rfl, by decide, (by decide : (254#8 : Byte) ≠ 0#8)⟩

/-- The wrapper with a fragment size of 0 (R127). -/
theorem test_witness_wrapper_zero :
    after { apduState .command .ack with atp := { base.atp with ifsc := 0#8 } } (·.phase) = none := rfl

/-- Refusals: one state of each clause. -/
theorem test_witness_refusals :
    (State.reset.phase = .uninit ∧ State.reset.apdu = none) ∧ silentState.phase = .eval ∧
    (apduState .command .ack).apdu ≠ none ∧
    ({ base with atp := { base.atp with ifsc := 0#8 } } : State).atp.ifsc = 0#8 := by
  refine ⟨by decide, rfl, by simp [apduState], rfl⟩

theorem test_witness_fragments :
    (∃ t, exec (.xferPart openCmd true) base = .next t) ∧ (∃ t, exec (.xferApdu openCmd) base = .next t) ∧
    ∃ t, step (apduState .command .ack) = .next t ∧ t.phase = .send :=
  ⟨⟨_, rfl⟩, ⟨_, rfl⟩, after_some (by decide +kernel)⟩

/-- A block is about to go out. -/
def sendState (ws : List WriteDraw) : State := { sent 0x00#8 openCmd with phase := .send, linkWr := ws }

/-- SEND, with each answer of the link and with none. -/
theorem test_witness_send (ws : List WriteDraw) :
    (sendState ws).port = none ∧ (sendState ws).phase = .send ∧ (sendState ws).txBuf.wf = true ∧
    (sendState ws).lastTx.wf = true ∧ (sendState ws).linkWr = ws :=
  ⟨rfl, rfl, rfl, (by decide +kernel : (built .crc 0x00#8 openCmd).wf = true), rfl⟩

/-- The engine waits, or reads a block whose NAD is in, and the link gives these draws. -/
def linkState (phase : Phase) (draws : List ReadDraw) : State :=
  { base with phase := phase, rxBuf := [(0, 0x12#8)], linkRd := draws }

/-- WAIT: noise, then any draw. -/
theorem test_witness_wait (d : ReadDraw) :
    (linkState .wait [.byte 0x00#8, d]).port = none ∧ (linkState .wait [.byte 0x00#8, d]).phase = .wait ∧
    (linkState .wait [.byte 0x00#8, d]).rxBuf.wf = true ∧ (∀ b ∈ [(0x00#8 : Byte)], b ≠ 0x12#8) ∧
    (linkState .wait [.byte 0x00#8, d]).linkRd = [0x00#8].map .byte ++ d :: [] :=
  ⟨rfl, rfl, rfl, by decide, rfl⟩

/-- WAIT: only bytes other than 0x12 have come, or none. -/
theorem test_witness_wait_blocked (noise : List Byte) :
    (linkState .wait (noise.map .byte)).port = none ∧ (linkState .wait (noise.map .byte)).phase = .wait ∧
    (linkState .wait (noise.map .byte)).linkRd = noise.map .byte ∧ (∀ b ∈ [0x00#8, (0x13#8 : Byte)], b ≠ 0x12#8) :=
  ⟨rfl, rfl, rfl, by decide⟩

/-- A block of one data byte after its NAD, with a window's end before its data byte. -/
def gappedBlock : List (Nat × Byte) := [(0, 0x00#8), (0, 0x01#8), (1, 0x55#8), (0, 0x11#8), (0, 0x22#8)]

/-- READ: a whole block of one data byte. -/
theorem test_witness_read :
    let s := linkState .read (withGaps gappedBlock)
    s.port = none ∧ s.phase = .read ∧ s.rxBuf.wf = true ∧ (0x01#8 : Byte) ≠ 255#8 ∧
    [(0x55#8 : Byte)].length = (0x01#8 : Byte).toNat ∧
    [(0x11#8 : Byte), 0x22#8].length = epilogueLen s.atp.checksum ∧
    gappedBlock.map Prod.snd = 0x00#8 :: 0x01#8 :: ([0x55#8] ++ [0x11#8, 0x22#8]) ∧
    s.linkRd = withGaps gappedBlock ++ [] :=
  ⟨rfl, rfl, rfl, by decide, rfl, rfl, rfl, rfl⟩

/-- R185 item 2: a window's end after the NAD does not end the block. -/
theorem test_read_past_window_end :
    after (linkState .read [.byte 0x00#8, .byte 0x01#8, .expired, .byte 0x55#8, .byte 0x11#8, .byte 0x22#8])
      (fun s => (s.phase, s.rxLen, s.lastRx.data, s.linkRd)) = some (.eval, 6#9, [0x55#8], []) := by
  decide +kernel

/-- READ: nothing has come yet, and a window's end after all but the last byte. -/
theorem test_witness_read_blocked :
    (linkState .read []).port = none ∧ (linkState .read []).phase = .read ∧
    blockShort 2 (([] : List (Nat × Byte)).map Prod.snd) ∧
    (linkState .read []).linkRd = withGaps [] ++ List.replicate 0 .expired ∧
    blockShort 2 ((gappedBlock.take 4).map Prod.snd) ∧ epilogueLen (linkState .read []).atp.checksum = 2 :=
  ⟨rfl, rfl, .inl (by decide), rfl, .inr ⟨0x00#8, 0x01#8, [0x55#8, 0x11#8], rfl, by decide⟩, rfl⟩

/-- READ: a block with LEN = 255, whatever its bytes. -/
theorem test_witness_read_long (data : List Byte) :
    let g := (0x00#8 :: 255#8 :: (data ++ [0x11#8, 0x22#8])).map fun b => (0, b)
    let s := linkState .read (withGaps g ++ [])
    s.port = none ∧ s.phase = .read ∧ s.rxBuf.wf = true ∧ (List.replicate 255 (0x55#8 : Byte)).length = 255 ∧
    [(0x11#8 : Byte), 0x22#8].length = epilogueLen s.atp.checksum ∧
    g.map Prod.snd = 0x00#8 :: 255#8 :: (data ++ [0x11#8, 0x22#8]) ∧ s.linkRd = withGaps g ++ [] :=
  ⟨rfl, rfl, rfl, List.length_replicate, rfl, by simp [Function.comp_def], rfl⟩

/-- READ: a link error in the prologue, and one before the epilogue's last byte, after a window's end. -/
theorem test_witness_read_error :
    let s := linkState .read (withGaps [(0, 0x00#8)] ++ List.replicate 0 .expired ++ [.ioErr])
    let s' := linkState .read (withGaps (gappedBlock.take 4) ++ List.replicate 1 .expired ++ [.ioErr])
    (s.port = none ∧ s.phase = .read ∧ s.rxBuf.wf = true ∧
      blockShort (epilogueLen s.atp.checksum) ([((0, 0x00#8) : Nat × Byte)].map Prod.snd) ∧
      s.linkRd = withGaps [(0, 0x00#8)] ++ List.replicate 0 .expired ++ .ioErr :: []) ∧
    s'.phase = .read ∧ blockShort (epilogueLen s'.atp.checksum) ((gappedBlock.take 4).map Prod.snd) ∧
    s'.linkRd = withGaps (gappedBlock.take 4) ++ List.replicate 1 .expired ++ .ioErr :: [] :=
  ⟨⟨rfl, rfl, rfl, .inl (by decide), rfl⟩, rfl, .inr ⟨0x00#8, 0x01#8, [0x55#8, 0x11#8], rfl, by decide⟩, rfl⟩

theorem test_witness_checks :
    wtxState.rxBuf.read 2 ≠ 255#8 ∧ consistent wtxState = 0 ∧
    consistent (received [0x12#8, 0xA2#8, 0x00#8, 0xAE#8, 0x6A#8] (sent 0x00#8 openCmd)) ≠ 0 := by decide +kernel

/-- A consistent block, in a state of the invariant: an instruction of the table, and the undefined R kind. -/
theorem test_witness_consistent :
    (Inv wtxState ∧ wtxState.phase = .eval ∧ wtxState.rxLen ≠ 0#9 ∧ consistent wtxState = 0) ∧
    (Inv undefinedState ∧ undefinedState.phase = .eval ∧ undefinedState.rxLen ≠ 0#9 ∧
      consistent undefinedState = 0) :=
  ⟨⟨inv_of_wtx, rfl, by decide +kernel, by decide +kernel⟩,
    inv_of (by decide +kernel) (by decide +kernel), rfl, by decide +kernel, by decide +kernel⟩

/-- A step's instruction: on the port, and in RXBUF. -/
theorem test_witness_step :
    (∃ c, ({ base with port := some (tablePort 1) } : State).port = some c ∧
      decode .crc (.port c) = .ok (.xferPart [] false)) ∧
    Inv wtxState ∧ dispatches wtxState ∧ (Instr.sWtxReq 0x05#8).wf = true ∧
    decode .crc (.block (wtxState.rxBuf.bytes 0 wtxState.rxLen.toNat)) = .ok (.sWtxReq 0x05#8) :=
  ⟨⟨_, rfl, rfl⟩, inv_of_wtx, dispatches_wtx, rfl, by decide +kernel⟩

theorem test_witness_undefined :
    dispatches undefinedState ∧ undefinedState.lastRx.len = 0x00#8 ∧ undefinedState.lastRx.data = [] ∧
    undefinedState.lastRx.pcb = 0x83#8 ||| ((0#1 : Seq).setWidth 8 <<< 4) :=
  ⟨⟨rfl, rfl, by decide +kernel, by decide +kernel⟩, rfl, rfl, rfl⟩

/-- Response failures: a timeout, and a block with a bad checksum. -/
theorem test_witness_failure :
    (silentState.port = none ∧ silentState.phase = .eval ∧ silentState.lastTx.pcb ≠ 0xCF#8 ∧
      silentState.rxLen = 0#9) ∧
    (received [0x12#8, 0x00#8, 0x02#8, 0x90#8, 0x00#8, 0x5A#8, 0xC0#8] silentState).rxLen ≠ 0#9 ∧
    consistent (received [0x12#8, 0x00#8, 0x02#8, 0x90#8, 0x00#8, 0x5A#8, 0xC0#8] silentState) ≠ 0 := by
  decide +kernel

/-- The WARM_RESET action: the SWRESET response, and a wrong one. -/
theorem test_witness_warm :
    (Inv warmState ∧ warmState.port = none ∧ warmState.phase = .eval ∧ warmState.lastTx.pcb = 0xCF#8 ∧
      warmState.rxLen ≠ 0#9 ∧ consistent warmState = 0) ∧
    consistent (received [0x12#8, 0xE0#8, 0x00#8, 0x78#8, 0x1F#8] warmState) ≠ 0 :=
  ⟨⟨inv_of (by decide +kernel) (by decide +kernel), rfl, rfl, rfl, by decide +kernel, by decide +kernel⟩,
    by decide +kernel⟩

/-- A silent card, right after the first transmission: two R-blocks and the SWRESET request are still to come. -/
theorem test_witness_silent :
    let s : State := { silentState with
      linkWr := List.replicate 3 .ok
      linkRd := List.replicate 3 .expired }
    let pcbs := escalation s.firstTransmission s.nsSlave s.recovery
    pcbs = [0x82#8, 0x82#8, 0xCF#8] ∧ s.port = none ∧ s.phase = .eval ∧ s.rxLen = 0#9 ∧ s.lastTx.pcb ≠ 0xCF#8 ∧
    s.apdu = none ∧ s.txBuf.wf = true ∧ s.linkWr = List.replicate pcbs.length .ok ++ [] ∧
    s.linkRd = List.replicate pcbs.length .expired ++ [] := by decide +kernel

theorem test_witness_wtxWindow :
    Inv { wtxState with linkWr := [.ok] } ∧ dispatches { wtxState with linkWr := [.ok] } ∧
    wtxState.lastRx.pcb = 0xC3#8 ∧ wtxState.lastRx.data = [0x05#8] :=
  ⟨inv_of (by decide +kernel) (by decide +kernel), ⟨rfl, rfl, by decide +kernel, by decide +kernel⟩, rfl, rfl⟩

/-- The WTX response that the link does not take, and its multiplier. -/
theorem test_witness_failedWrite :
    Inv { wtxState with linkWr := [.ioErr] } ∧ dispatches { wtxState with linkWr := [.ioErr] } ∧
    wtxState.lastRx.pcb = 0xC3#8 ∧ wtxState.lastRx.data = [0x05#8] :=
  ⟨inv_of (by decide +kernel) (by decide +kernel), ⟨rfl, rfl, by decide +kernel, by decide +kernel⟩, rfl, rfl⟩

/-- UNINIT with the link ready and other registers than after reset: no operation, so nothing happens. -/
theorem test_witness_uninit :
    let s : State := { silentState with phase := .uninit, linkRd := [.byte 0x12#8], linkWr := [.ok] }
    s.port = none ∧ s.phase = .uninit := ⟨rfl, rfl⟩

/-- A response at the capacity, and one byte over it. -/
theorem test_witness_capacity :
    [0x90#8, (0x00#8 : Byte)].length ≤ 2 ∧ 1 < [0x90#8, (0x00#8 : Byte)].length := by decide

theorem test_witness_invariant : Inv wtxState ∧ ∃ t, step wtxState = .next t ∧ t.phase = .send :=
  ⟨inv_of_wtx, after_some (by decide +kernel)⟩

/-- Events that move the sequence numbers, `atp`, and the cached file. -/
theorem test_witness_moves :
    (∃ t, step (received [0x12#8, 0x00#8, 0x00#8, 0xE1#8, 0xF6#8] silentState) = .next t ∧
      (t.nsMaster, t.nsSlave) = (1#1, 1#1)) ∧ (silentState.nsMaster, silentState.nsSlave) = (0#1, 0#1) ∧
    (∃ t, step (received [0x12#8, 0xC1#8, 0x01#8, 0x80#8, 0x9F#8, 0xCB#8] silentState) = .next t ∧
      t.atp.ifsc = 0x80#8) ∧ silentState.atp.ifsc = 0xFE#8 ∧
    (∃ t, step { silentState with recovery := .resend2 } = .next t ∧ t.events = [.atpCacheDelete]) ∧
    silentState.events = [] :=
  ⟨after_some (by decide +kernel), rfl, after_some (by decide +kernel), rfl, after_some (by decide +kernel), rfl⟩

/-- INIT sets `first_transmission` again. -/
theorem test_witness_firstTransmission :
    (State.reset.withFetchWord 8 0x00).firstTransmission = false ∧
    ∃ t, step (State.reset.withFetchWord 8 0x00) = .next t ∧ t.firstTransmission = true :=
  ⟨by decide +kernel, after_some (by decide +kernel)⟩

end Sys2Proof.Tests
end

section
/-! PROOFS. The engine's state, part 1: the invariant. What of `Inv` does not look at the phase is `Ready`; an operation
in progress is `Running`; each operation that leaves a running state is shown once to leave one of `Inv`, and the step
is the case split of `Move`. -/

namespace Sys2Proof.EngineState

open Sys2Proof.Machine Sys2Proof.Safety

/-! ### What the invariant says whatever the phase -/

/-- A TPDU register as the engine fills it: it fits the formats (R11), with NAD 0x00 (R126) and one of `pcbs`. -/
structure EngineBlock (pcbs : List Byte) (b : Tpdu) : Prop where
  wf : b.wf = true
  nad : b.nad = 0x00#8
  pcb : b.pcb ∈ pcbs

/-- The invariant's part that holds in every phase of an initialised engine, as a relation of the fields it reads, so
that an update of any other field keeps it by definition: `by exact h` below proves it of such an update. -/
structure Registers (txBuf rxBuf : Memory) (orig lastTx : Tpdu) (initialized : Bool) (ifsd : Byte) : Prop where
  txWf : txBuf.wf = true
  rxWf : rxBuf.wf = true
  origBlock : EngineBlock origPcbs orig
  lastTxBlock : EngineBlock sentPcbs lastTx
  isInitialized : initialized = true
  ifsdDefault : ifsd = 254#8

/-- `Registers` of a state's own fields. -/
def Ready (s : State) : Prop := Registers s.txBuf s.rxBuf s.orig s.lastTx s.initialized s.ifsd

/-- A ready state with an operation in progress, so that no outcome stands. -/
def Running (s : State) : Prop := Ready s ∧ s.outcome = none

/-- `last_rx` and `rx_len` are those of a block that PARSE has read from RXBUF (R112, R113). -/
structure HoldsBlock (s : State) : Prop where
  nad : s.lastRx.nad = 0x12#8
  len : s.rxLen = BitVec.ofNat 9 (3 + s.lastRx.len.toNat + epilogueLen s.atp.checksum)
  parsed : s.lastRx.len ≠ 255#8 → s.lastRx = parse s.atp.checksum s.rxBuf

theorem ready_of_inv {s : State} (h : Safety.Inv s) (hp : s.phase ≠ .uninit) : Ready s where
  txWf := h.txBuf
  rxWf := h.rxBuf
  origBlock := ⟨h.origWf, h.origNad, h.origPcb⟩
  lastTxBlock := ⟨h.lastTxWf, h.lastTxNad, h.lastTxPcb⟩
  isInitialized := by simpa using mt h.initialized.1 hp
  ifsdDefault := h.ifsd hp

theorem busy_of_phase {s : State} (hu : s.phase ≠ .uninit) (hi : s.phase ≠ .idle) : s.busy = true := by
  simp [State.busy, hu, hi]

theorem busy_of_apdu {s : State} {x : ApduRun} (hx : s.apdu = some x) : s.busy = true := by
  simp [State.busy, hx]

theorem phase_of_not_busy {s : State} (hb : s.busy = false) : s.phase = .uninit ∨ s.phase = .idle := by
  by_contra hc
  push Not at hc
  simp [busy_of_phase hc.1 hc.2] at hb

theorem apdu_of_not_busy {s : State} (hb : s.busy = false) : s.apdu = none := by
  simp only [State.busy, Bool.or_eq_false_iff] at hb
  simpa using hb.1

theorem running_of_busy {s : State} (h : Safety.Inv s) (hp : s.phase ≠ .uninit) (hb : s.busy = true) : Running s :=
  ⟨ready_of_inv h hp, h.noOutcome hb⟩

/-- An exchange or the handling of its block is a running operation. -/
theorem running_of_phase {s : State} {p : Phase} (h : Safety.Inv s) (hp : s.phase = p) (hu : p ≠ .uninit)
    (hi : p ≠ .idle) : Running s :=
  running_of_busy h (hp ▸ hu) (busy_of_phase (hp ▸ hu) (hp ▸ hi))

/-! ### The invariant from what holds in each phase -/

theorem inv_of_ready {t : State} (hr : Ready t) (hu : t.phase ≠ .uninit) (ho : t.busy = true → t.outcome = none)
    (hidle : t.phase = .idle → ∀ x, t.apdu = some x → x.part.isSome = true)
    (hread : t.phase = .read → t.nbwt = 1#8 ∧ t.rxBuf.read 0 = 0x12#8)
    (heval : t.phase = .eval → t.nbwt = 1#8 ∧ (t.rxLen ≠ 0#9 → HoldsBlock t)) : Safety.Inv t where
  txBuf := hr.txWf
  rxBuf := hr.rxWf
  origWf := hr.origBlock.wf
  lastTxWf := hr.lastTxBlock.wf
  origNad := hr.origBlock.nad
  lastTxNad := hr.lastTxBlock.nad
  origPcb := hr.origBlock.pcb
  lastTxPcb := hr.lastTxBlock.pcb
  initialized := by simp [hr.isInitialized, hu]
  ifsd _ := hr.ifsdDefault
  nbwt := Or.rec (fun h => (hread h).1) fun h => (heval h).1
  readNad h := (hread h).2
  evalNad h hl := ((heval h).2 hl).nad
  evalLen h hl := ((heval h).2 hl).len
  evalParse h hl := ((heval h).2 hl).parsed
  uninitApdu h := absurd h hu
  idleApdu := hidle
  noOutcome := ho

/-- A block under way, or sent and not answered yet. -/
theorem inv_of_exchange {t : State} (h : Running t) (hp : t.phase = .send ∨ t.phase = .wait) : Safety.Inv t := by
  apply inv_of_ready h.1 (ho := fun _ => h.2) <;> rcases hp with hp | hp <;> simp [hp]

/-- IDLE with no XFER_APDU in progress. -/
theorem inv_of_idle {t : State} (h : Ready t) (hp : t.phase = .idle) (ha : t.apdu = none) : Safety.Inv t := by
  apply inv_of_ready h <;> simp [hp, ha, busy_idle hp ha]

/-- READ: the NAD byte has come (R111). -/
theorem inv_of_read {t : State} (h : Running t) (hp : t.phase = .read) (hn : t.nbwt = 1#8)
    (hb : t.rxBuf.read 0 = 0x12#8) : Safety.Inv t := by
  apply inv_of_ready h.1 (ho := fun _ => h.2) <;> simp [hp, hn, hb]

/-- EVAL: a block has been read, or the window has ended (R165). -/
theorem inv_of_eval {t : State} (h : Running t) (hp : t.phase = .eval) (hn : t.nbwt = 1#8)
    (hb : t.rxLen ≠ 0#9 → HoldsBlock t) : Safety.Inv t := by
  apply inv_of_ready h.1 (ho := fun _ => h.2) <;> simp [hp, hn]
  exact hb

/-! ### What an operation in progress comes to -/

/-- An original block's PCB is one the engine sends. -/
theorem EngineBlock.sent {b : Tpdu} (h : EngineBlock origPcbs b) : EngineBlock sentPcbs b :=
  ⟨h.wf, h.nad, List.mem_append_left _ h.pcb⟩

theorem engineBlock_built {pcbs : List Byte} {k : ChecksumKind} {pcb : Byte} {data : List Byte} (hp : pcb ∈ pcbs)
    (hd : data.length ≤ 254) : EngineBlock pcbs (built k pcb data) :=
  ⟨built_wf k pcb hd, rfl, hp⟩

/-- The operation ends, for the host or for the wrapper (R187, R127). -/
theorem Running.endOp {s : State} (h : Running s) (o : OpOutcome) : Safety.Inv (s.endOp o) := by
  obtain ⟨hr, ho⟩ := h
  have hr' : Ready (s.endOp o) := by simpa [Ready] using hr
  apply inv_of_ready hr' <;> cases hx : s.apdu <;> simp [State.busy, hx, ho]

theorem Running.raise {s : State} (h : Running s) (k : ErrKind) : Safety.Inv (s.raise k) :=
  Running.endOp (s := s.loseResp) h (.err k)

/-- An exchange begins (R165). -/
theorem Running.exchange {s : State} {b : Tpdu} (h : Running s) (hb : EngineBlock sentPcbs b) :
    Safety.Inv (s.exchange b) :=
  inv_of_exchange ⟨{ h.1 with lastTxBlock := hb }, h.2⟩ (.inl rfl)

/-- The exchange of a new `orig` begins (R122, R153). -/
theorem Running.exchange_newOrig {s : State} {b : Tpdu} (h : Running s) (hb : EngineBlock origPcbs b) :
    Safety.Inv ({ s with orig := b }.exchange b) :=
  Running.exchange ⟨{ h.1 with origBlock := hb }, h.2⟩ hb.sent

theorem Running.sending {s : State} {pcb : Byte} {data : List Byte} (h : Running s) (hp : pcb ∈ sentPcbs)
    (hd : data.length ≤ 254) : Safety.Inv (sending s pcb data) := by
  rw [← sum_exchange_built, State.sum_eq]
  exact Running.exchange h (engineBlock_built hp hd)

/-- A part of a transfer begins (R122, R127). -/
theorem Running.sending_part {s : State} {pcb : Byte} {frag : List Byte} (h : Running s) (hp : pcb ∈ origPcbs)
    (hd : frag.length ≤ fragLimit s.atp.ifsc) (x : Option ApduRun) :
    Safety.Inv { Safety.sending s pcb frag with orig := built s.atp.checksum pcb frag, apdu := x } := by
  have hb : EngineBlock origPcbs (built s.atp.checksum pcb frag) :=
    engineBlock_built hp (hd.trans (fragLimit_le _))
  exact inv_of_exchange ⟨{ h.1 with origBlock := hb, lastTxBlock := hb.sent }, h.2⟩ (.inl rfl)

theorem recoveryPcb_mem_sentPcbs : ∀ (r : Recovery) (ns : Seq), recoveryPcb r ns ∈ sentPcbs := by
  intro r
  cases r <;> decide

/-- The entry into recovery (R186). -/
theorem Running.inRecovery {s : State} (h : Running s) : Safety.Inv (inRecovery s) :=
  Running.sending (by exact h) (recoveryPcb_mem_sentPcbs _ _) (Nat.zero_le _)

theorem Running.sumReceived {s : State} (h : Running s) : Running s.sumReceived := by
  rw [sumReceived_eq]
  exact h

theorem Running.settled {s : State} (h : Running s) : Running s.settled := by
  rw [settled_eq]
  exact h

/-- Renumbering an original block to 0 leaves a PCB an original block can have (R153). -/
theorem renumbered_mem_origPcbs : ∀ p ∈ origPcbs, p &&& 0xBF#8 ∈ origPcbs ∧ p &&& 0xEF#8 ∈ origPcbs := by decide

/-- A received block's meaning, from an operation in progress. -/
theorem BlockMove.inv {i : Instr} {s t : State} (hm : BlockMove i s t) (h : Running s) : Safety.Inv t := by
  have horig : EngineBlock origPcbs s.orig := h.1.origBlock
  cases hm with
  | iBlock => exact Running.endOp (by exact h) _
  | ack => exact Running.endOp (by exact h) _
  | resend => exact h.exchange horig.sent
  | recover => exact h.inRecovery
  | resynchReq => exact Running.sending (s := s.zeroSeq) h (by decide) (by decide)
  | resynchRsp b _ hw hn hk bs =>
    have hb : b.pcb ∈ origPcbs := by
      obtain ⟨hI, hR⟩ := renumbered_mem_origPcbs _ horig.pcb
      rcases hk with ⟨-, e⟩ | ⟨-, e⟩ <;> rw [e] <;> assumption
    rw [State.sum_eq]
    exact Running.exchange_newOrig (by exact h) ⟨hw, hn.trans horig.nad, hb⟩
  | resynchRspSame => exact Running.exchange (s := s.zeroSeq) h horig.sent
  | ifsReq b => exact Running.sending (by exact h) (by decide) (by simp)
  | wtxReq b => exact Running.sending (by exact h) (by decide) (by simp)
  | swresetRsp => exact Running.raise (by exact h) _
  | noHandler => exact h.raise _

/-! ### The step -/

/-- WRITE_TPDU stores the frame and changes no register of the engine (R110). -/
theorem Running.framed {s : State} {buf : Memory} {n : Nat} (h : Running s)
    (hb : toBytes s.atp.checksum s.lastTx s.txBuf = .ok (buf, n)) : Running (s.framed buf) := by
  obtain ⟨hr, ho⟩ := h
  have hfit := image_fits s.atp.checksum hr.lastTxBlock.wf
  rw [toBytes_eq _ hr.txWf hr.lastTxBlock.wf] at hb
  cases hb
  rw [State.framed, State.sum_eq]
  exact ⟨{ hr with txWf := Memory.writeList_wf hr.txWf hfit }, ho⟩

/-- A read fails inside the block (R165). -/
theorem Running.readFailed {s : State} {buf : Memory} (h : Running s) (hw : buf.wf = true) (rest : List ReadDraw) :
    Safety.Inv (s.readFailed buf rest) :=
  Running.raise (s := { s with rxBuf := buf, linkRd := rest }) ⟨{ h.1 with rxWf := hw }, h.2⟩ .io

/-- A failed INIT leaves UNINIT, where the invariant asks nothing of the values R187 leaves open. -/
theorem inv_initFailed {s : State} (h : Safety.Inv s) (hb : s.busy = false) :
    Safety.Inv { s with port := none }.initFailed where
  txBuf := h.txBuf
  rxBuf := h.rxBuf
  origWf := h.origWf
  lastTxWf := h.lastTxWf
  origNad := h.origNad
  lastTxNad := h.lastTxNad
  origPcb := h.origPcb
  lastTxPcb := h.lastTxPcb
  initialized := by simp
  ifsd := by simp
  nbwt := by simp
  readNad := by simp
  evalNad := by simp
  evalLen := by simp
  evalParse := by simp
  uninitApdu _ := (State.initFailed_apdu _).trans (apdu_of_not_busy hb)
  idleApdu := by simp
  noOutcome := by simp [State.busy, apdu_of_not_busy hb]

/-- A successful INIT makes the engine ready, whatever the registers' other values were. -/
theorem inv_initWith {s : State} (h : Safety.Inv s) (hb : s.busy = false) (a : Atp) :
    Safety.Inv ({ s with port := none }.initWith a) :=
  inv_of_idle
    ⟨h.txBuf, h.rxBuf, ⟨h.origWf, h.origNad, h.origPcb⟩, ⟨h.lastTxWf, h.lastTxNad, h.lastTxPcb⟩, rfl, rfl⟩
    rfl ((State.initWith_apdu _ a).trans (apdu_of_not_busy hb))

/-- What READ leaves of a block with a legal LEN (R112). -/
theorem holdsBlock_received {s : State} {buf : Memory} (rest : List ReadDraw) (hn : buf.read 0 = 0x12#8) :
    HoldsBlock (s.received buf rest) :=
  ⟨hn, rfl, fun _ => rfl⟩

/-- What READ leaves of a block with LEN = 255 (R113). -/
theorem holdsBlock_receivedLong {s : State} {buf : Memory} (rest : List ReadDraw) (hn : buf.read 0 = 0x12#8) :
    HoldsBlock (s.receivedLong buf rest) :=
  ⟨hn, rfl, fun h => absurd rfl h⟩

/-- Every move keeps the invariant. -/
theorem Move.inv {s t : State} (hm : Move s t) (h : Safety.Inv s) : Safety.Inv t := by
  have running : ∀ p, s.phase = p → p ≠ .uninit → p ≠ .idle → Running s := fun _ => running_of_phase h
  cases hm with
  | initOk _ a _ _ hb => exact inv_initWith h hb a
  | initFailed _ _ _ hb => exact inv_initFailed h hb
  | begin _ _ _ x _ hph _ hpcb hl =>
    have hr : Ready s := ready_of_inv h (by simp [hph])
    exact Running.sending_part (s := { s with port := none, outcome := none }) ⟨hr, rfl⟩ hpcb hl x
  | stay => exact h
  | discard _ hph => exact inv_of_exchange (running _ hph nofun nofun) (.inr hph)
  | apduErr k _ hph =>
    have hr : Ready s := ready_of_inv h (by simp [hph])
    exact inv_of_idle (by exact hr) hph rfl
  | apduDone d _ hph =>
    have hr : Ready s := ready_of_inv h (by simp [hph])
    exact inv_of_idle (by exact hr) hph rfl
  | apduPart _ _ x y _ hph ha hpcb hl =>
    exact (running_of_busy h (by simp [hph]) (busy_of_apdu ha)).sending_part hpcb hl (some y)
  | sent _ _ _ _ _ hph hb =>
    have hf := (running _ hph nofun nofun).framed hb
    exact inv_of_exchange (by exact hf) (.inr rfl)
  | sendErr _ _ _ _ hph hb =>
    have hf := (running _ hph nofun nofun).framed hb
    exact Running.raise (by exact hf) _
  | present _ _ _ hph hb =>
    obtain ⟨hr, ho⟩ := running _ hph nofun nofun
    have hw := memWrite_wf hr.rxWf hb
    obtain ⟨rfl, -⟩ := memWrite_ok hb
    have hn : (s.rxBuf.writeList 0 [nadSeToHost]).read 0 = 0x12#8 := by
      simp [Memory.writeList, Memory.read_write hr.rxWf, nadSeToHost]
    exact inv_of_read ⟨{ hr with rxWf := hw }, ho⟩ rfl rfl hn
  | timeout _ _ hph => exact inv_of_eval (running _ hph nofun nofun) rfl rfl fun hl => absurd rfl hl
  | pollErr _ _ hph => exact Running.raise (by exact running _ hph nofun nofun) _
  | readErr _ rest _ hph hb => exact (running _ hph nofun nofun).readFailed (hb h.rxBuf).1 rest
  | received _ rest _ hph hb =>
    obtain ⟨hr, ho⟩ := running _ hph nofun nofun
    obtain ⟨hw, hn, -⟩ := hb hr.rxWf
    exact inv_of_eval ⟨{ hr with rxWf := hw }, ho⟩ rfl (h.nbwt (.inl hph))
      fun _ => holdsBlock_received rest (hn.trans (h.readNad hph))
  | receivedLong _ rest _ hph hb =>
    obtain ⟨hr, ho⟩ := running _ hph nofun nofun
    obtain ⟨hw, hn⟩ := hb hr.rxWf
    exact inv_of_eval ⟨{ hr with rxWf := hw }, ho⟩ rfl (h.nbwt (.inl hph))
      fun _ => holdsBlock_receivedLong rest (hn.trans (h.readNad hph))
  | failure u _ hph _ hu =>
    have hs := running _ hph nofun nofun
    rcases hu with rfl | rfl
    · exact hs.inRecovery
    · exact hs.sumReceived.inRecovery
  | failureWarm u _ hph _ hu =>
    have hs := running _ hph nofun nofun
    rcases hu with rfl | rfl
    · exact hs.raise _
    · exact hs.sumReceived.raise _
  | block i _ hd _ _ hbm => exact BlockMove.inv hbm (running _ hd.2.1 nofun nofun).settled

/-- Settles O48: each `Move` of the step leaves a state of the invariant. -/
theorem stepKeepsInvariant : Obligations.StepKeepsInvariant :=
  fun _ _ h hs => Move.inv (step_move hs) h

end Sys2Proof.EngineState
end

section
/-! PROOFS. The engine's state, part 2: which steps change a sequence number, `atp`, `first_transmission` or `phase`,
read off the moves; and what reset, INIT and storing a response leave. -/

namespace Sys2Proof.EngineState

open Sys2Proof.Machine Sys2Proof.Safety

/-! ### What a step can do to the numbers and the store -/

/-- `ns_master`, `ns_slave`, `first_transmission` and `atp` are as they were. -/
structure KeepsNumbers (s t : State) : Prop where
  nsMaster : t.nsMaster = s.nsMaster
  nsSlave : t.nsSlave = s.nsSlave
  firstTransmission : t.firstTransmission = s.firstTransmission
  atp : t.atp = s.atp

/-- A consistent block is dispatched and its meaning, that of `i`, leaves `t` (R145). -/
structure BlockStep (s t : State) (i : Instr) : Prop where
  dispatched : dispatches s
  decoded : decodeFields s.lastRx.pcb s.lastRx.len s.lastRx.data = .ok i ∨
    ∃ nr, i = .rOk nr ∧ decodeFields s.lastRx.pcb s.lastRx.len s.lastRx.data = .error (.undefinedErrKind nr)
  moved : BlockMove i s.settled t

theorem settled_keepsNumbers (s : State) :
    s.settled.nsMaster = s.nsMaster ∧ s.settled.nsSlave = s.nsSlave ∧ s.settled.atp = s.atp ∧
      s.settled.orig = s.orig ∧ s.settled.firstTransmission = false := by
  rw [settled_eq]
  exact ⟨rfl, rfl, rfl, rfl, rfl⟩

/-- The recovery's entry writes none of them (R186). -/
theorem inRecovery_keepsNumbers {s u : State} (hu : u = s ∨ u = s.sumReceived) : KeepsNumbers s (inRecovery u) := by
  rcases hu with rfl | rfl
  · exact ⟨rfl, rfl, rfl, rfl⟩
  · rw [sumReceived_eq]; exact ⟨rfl, rfl, rfl, rfl⟩

theorem raise_keepsNumbers {s u : State} (k : ErrKind) (hu : u = s ∨ u = s.sumReceived) :
    KeepsNumbers s (u.raise k) := by
  rcases hu with rfl | rfl <;> constructor <;> simp

/-- Only INIT and a dispatched block write the numbers and the store. -/
theorem step_numbers {s t : State} (h : step s = .next t) :
    presentsInit s ∨ KeepsNumbers s t ∨ ∃ i, BlockStep s t i := by
  cases step_move h with
  | initOk c _ hp hc => exact .inl ⟨c, _, hp, hc⟩
  | initFailed c hp hc => exact .inl ⟨c, _, hp, hc⟩
  | failure u _ _ _ hu => exact .inr (.inl (inRecovery_keepsNumbers hu))
  | failureWarm u _ _ _ hu => exact .inr (.inl (raise_keepsNumbers _ hu))
  | block i _ hd _ hf hm => exact .inr (.inr ⟨i, hd, hf, hm⟩)
  | begin | stay | discard | apduErr | apduDone | apduPart | present | timeout | received | receivedLong =>
    exact .inr (.inl ⟨rfl, rfl, rfl, rfl⟩)
  | sent | sendErr | pollErr | readErr => exact .inr (.inl (by constructor <;> simp))

/-! ### What the dispatched block's PCB and data are -/

/-- Only an R-block of the undefined kind is dispatched without being decoded (U2). -/
theorem BlockStep.decodes {s t : State} {i : Instr} (h : BlockStep s t i) (hi : ∀ nr, i ≠ .rOk nr) :
    decodeFields s.lastRx.pcb s.lastRx.len s.lastRx.data = .ok i := by
  rcases h.decoded with hd | ⟨nr, e, -⟩
  · exact hd
  · exact absurd e (hi nr)

theorem BlockStep.of_i {s t : State} {ns : Seq} {more : Bool} {data : List Byte}
    (h : BlockStep s t (.i ns more data)) : blockKind s.lastRx.pcb = .I :=
  (decodeFields_pcb (h.decodes nofun)).1

/-- An R-block's N(R), the undefined kind's included (R65, U2). -/
theorem BlockStep.of_r {s t : State} {i : Instr} {nr : Seq} (h : BlockStep s t i)
    (hi : i = .rOk nr ∨ i = .rCkerr nr ∨ i = .rOther nr) : blockKind s.lastRx.pcb = .R ∧ pcbNr s.lastRx.pcb = nr := by
  have hpcb : blockKind s.lastRx.pcb = .R ∧ nr = pcbNr s.lastRx.pcb := by
    rcases h.decoded with hd | ⟨nr', e, hd⟩
    · rcases hi with rfl | rfl | rfl <;> exact decodeFields_pcb hd
    · obtain rfl : nr = nr' := by simpa [e, eq_comm] using hi
      exact decodeFields_undefined hd
  exact ⟨hpcb.1, hpcb.2.symm⟩

/-- The instructions that set both sequence numbers to 0 (R32). -/
def zeroesNumbers : Instr → Bool
  | .sResynchReq => true
  | .sResynchRsp => true
  | .sSwresetRsp _ => true
  | _ => false

theorem BlockStep.of_zeroesNumbers {s t : State} {i : Instr} (h : BlockStep s t i) (hi : zeroesNumbers i = true) :
    s.lastRx.pcb ∈ [0xC0#8, 0xE0#8, 0xEF#8] := by
  have hd := h.decodes (by rintro nr rfl; cases hi)
  cases i <;> simp only [zeroesNumbers, Bool.false_eq_true] at hi
  case sResynchReq => simp [decodeFields_pcb hd]
  case sResynchRsp => simp [decodeFields_pcb hd]
  case sSwresetRsp => simp [(decodeFields_pcb hd).1]

/-! ### What a block's meaning does to each -/

/-- `ns_slave` (R20). -/
theorem BlockMove.nsSlave {i : Instr} {s t : State} (h : BlockMove i s t) :
    t.nsSlave = s.nsSlave ∨ (∃ ns more data, i = .i ns more data) ∨ zeroesNumbers i = true := by
  cases h with
  | iBlock ns more data hi => exact .inr (.inl ⟨ns, more, data, hi⟩)
  | resynchReq hi | resynchRsp _ hi | resynchRspSame hi | swresetRsp _ hi => exact .inr (.inr (hi ▸ rfl))
  | resend | recover | ifsReq | wtxReq => exact .inl rfl
  | ack | noHandler => exact .inl (by simp)

/-- `ns_master` (R21). -/
theorem BlockMove.nsMaster {i : Instr} {s t : State} (h : BlockMove i s t) :
    t.nsMaster = s.nsMaster ∨ ((∃ ns more data, i = .i ns more data) ∧ blockKind s.orig.pcb = .I) ∨
      ((i = .rOk s.nsMaster.flip ∨ i = .rCkerr s.nsMaster.flip ∨ i = .rOther s.nsMaster.flip) ∧
        s.orig.chained = true) ∨ zeroesNumbers i = true := by
  cases h with
  | iBlock ns more data hi =>
    by_cases hk : blockKind s.orig.pcb = .I
    · exact .inr (.inl ⟨⟨ns, more, data, hi⟩, hk⟩)
    · exact .inl (by simp [hk])
  | ack hi hc => exact .inr (.inr (.inl ⟨hi, hc⟩))
  | resynchReq hi | resynchRsp _ hi | resynchRspSame hi | swresetRsp _ hi =>
    exact .inr (.inr (.inr (hi ▸ rfl)))
  | resend | recover | ifsReq | wtxReq => exact .inl rfl
  | noHandler => exact .inl (by simp)

/-- `atp` (R24). -/
theorem BlockMove.atp {i : Instr} {s t : State} (h : BlockMove i s t) :
    t.atp = s.atp ∨ (∃ b, i = .sIfsReq b ∧ t.atp = { s.atp with ifsc := b }) ∨
      ∃ data, i = .sSwresetRsp data ∧ t.atp = (Config.atpParse data).getD s.atp := by
  cases h with
  | ifsReq b hi => exact .inr (.inl ⟨b, hi, rfl⟩)
  | swresetRsp data hi => exact .inr (.inr ⟨data, hi, by simp⟩)
  | resend | recover | resynchReq | resynchRspSame | wtxReq => exact .inl rfl
  | iBlock | ack | resynchRsp | noHandler => exact .inl (by simp)

/-- `first_transmission` is not written after the block has settled (R18). -/
theorem BlockMove.firstTransmission {i : Instr} {s t : State} (h : BlockMove i s t) :
    t.firstTransmission = s.firstTransmission := by
  cases h with
  | resend | recover | resynchReq | resynchRspSame | ifsReq | wtxReq => rfl
  | iBlock | ack | resynchRsp | swresetRsp | noHandler => simp

/-- Dispatching ends with the block under way or the operation ended (R16). -/
theorem BlockMove.phase {i : Instr} {s t : State} (h : BlockMove i s t) : t.phase = .send ∨ t.phase = .idle := by
  cases h with
  | resend | recover | resynchReq | resynchRsp | resynchRspSame | ifsReq | wtxReq => exact .inl rfl
  | iBlock | ack | swresetRsp | noHandler => exact .inr (by simp)

/-! ### The statements about every step -/

theorem BlockStep.nsSlave_event {s t : State} {i : Instr} (h : BlockStep s t i) (hn : t.nsSlave ≠ s.nsSlave) :
    blockKind s.lastRx.pcb = .I ∨ s.lastRx.pcb ∈ [0xC0#8, 0xE0#8, 0xEF#8] := by
  obtain ⟨-, hs, -, -, -⟩ := settled_keepsNumbers s
  rcases BlockMove.nsSlave h.moved with e | ⟨ns, more, data, rfl⟩ | hz
  · exact absurd (e.trans hs) hn
  · exact .inl h.of_i
  · exact .inr (h.of_zeroesNumbers hz)

theorem BlockStep.nsMaster_event {s t : State} {i : Instr} (h : BlockStep s t i) (hn : t.nsMaster ≠ s.nsMaster) :
    (blockKind s.lastRx.pcb = .I ∧ blockKind s.orig.pcb = .I) ∨
      (blockKind s.lastRx.pcb = .R ∧ s.orig.chained = true ∧ pcbNr s.lastRx.pcb = s.nsMaster ^^^ 1#1) ∨
      s.lastRx.pcb ∈ [0xC0#8, 0xE0#8, 0xEF#8] := by
  obtain ⟨hm, -, -, ho, -⟩ := settled_keepsNumbers s
  have moved := BlockMove.nsMaster h.moved
  rw [hm, ho] at moved
  rcases moved with e | ⟨⟨ns, more, data, rfl⟩, hk⟩ | ⟨hi, hc⟩ | hz
  · exact absurd e hn
  · exact .inl ⟨h.of_i, hk⟩
  · obtain ⟨hR, hnr⟩ := h.of_r hi
    exact .inr (.inl ⟨hR, hc, hnr⟩)
  · exact .inr (.inr (h.of_zeroesNumbers hz))

theorem BlockStep.atp_event {s t : State} {i : Instr} (h : BlockStep s t i) (hn : t.atp ≠ s.atp) :
    (s.lastRx.pcb = 0xC1#8 ∧ ∃ b, s.lastRx.data = [b] ∧ t.atp = { s.atp with ifsc := b }) ∨
      (s.lastRx.pcb = 0xEF#8 ∧ Config.atpParse s.lastRx.data = some t.atp) := by
  obtain ⟨-, -, ha, -, -⟩ := settled_keepsNumbers s
  have moved := BlockMove.atp h.moved
  rw [ha] at moved
  rcases moved with e | ⟨b, rfl, e⟩ | ⟨data, rfl, e⟩
  · exact absurd e hn
  · obtain ⟨hpcb, hdata⟩ := decodeFields_pcb (h.decodes nofun)
    exact .inl ⟨hpcb, b, hdata, e⟩
  · obtain ⟨hpcb, rfl⟩ := decodeFields_pcb (h.decodes nofun)
    cases hparse : Config.atpParse s.lastRx.data with
    | none => rw [hparse] at e; exact absurd e hn
    | some a => rw [hparse] at e; exact .inr ⟨hpcb, congrArg some e.symm⟩

/-- Settles O50: outside INIT and a dispatched block the numbers stand, and a block's meaning writes them at R20's and
R21's events only. -/
theorem sequenceNumbersChangeOnlyAtTheirEvents : Obligations.SequenceNumbersChangeOnlyAtTheirEvents := by
  intro s t h
  rcases step_numbers h with hp | hk | ⟨i, hb⟩
  · exact ⟨fun _ => .inl hp, fun _ => .inl hp⟩
  · exact ⟨fun hn => absurd hk.nsSlave hn, fun hn => absurd hk.nsMaster hn⟩
  · exact ⟨fun hn => .inr ⟨hb.dispatched, hb.nsSlave_event hn⟩,
      fun hn => .inr ⟨hb.dispatched, hb.nsMaster_event hn⟩⟩

/-- Settles O51: a dispatched block leaves `first_transmission` false, and no other step but INIT writes it. -/
theorem firstTransmissionReturnsOnlyByInit : Obligations.FirstTransmissionReturnsOnlyByInit := by
  intro s t h hs ht
  rcases step_numbers h with hp | hk | ⟨i, hb⟩
  · exact hp
  · simp [hk.firstTransmission, hs] at ht
  · obtain ⟨-, -, -, -, hf⟩ := settled_keepsNumbers s
    simp [BlockMove.firstTransmission hb.moved, hf] at ht

/-- Settles O52: of the blocks' meanings, the IFS request's and the SWRESET response's write `atp`. -/
theorem atpChangesOnlyAtItsEvents : Obligations.AtpChangesOnlyAtItsEvents := by
  intro s t h hn
  rcases step_numbers h with hp | hk | ⟨i, hb⟩
  · exact .inl hp
  · exact absurd hk.atp hn
  · exact .inr ⟨hb.dispatched, hb.atp_event hn⟩

/-- A phase that a step may wait in is among its own moves. -/
theorem mem_phaseMoves_self {p : Phase} (h : p ≠ .eval) : p ∈ phaseMoves p := by
  cases p with
  | eval => exact absurd rfl h
  | uninit | idle | send | wait | read => decide

@[simp] theorem sending_phase (s : State) (pcb : Byte) (data : List Byte) : (sending s pcb data).phase = .send := rfl

@[simp] theorem inRecovery_phase (s : State) : (inRecovery s).phase = .send := rfl

/-- Settles O53, by the moves: each names the phase before it and sets the phase after it. -/
theorem phaseMovesFollowTheTable : Obligations.PhaseMovesFollowTheTable := by
  intro s t h
  have hinit : s.busy = false → Phase.idle ∈ phaseMoves s.phase ∧ Phase.uninit ∈ phaseMoves s.phase := by
    intro hb
    rcases phase_of_not_busy hb with e | e <;> rw [e] <;> decide
  cases step_move h with
  | initOk _ _ _ _ hb => exact (hinit hb).1
  | initFailed _ _ _ hb => exact (hinit hb).2
  | stay _ hph => exact mem_phaseMoves_self hph
  | block _ _ hd _ _ hm =>
    rw [hd.2.1]
    rcases BlockMove.phase hm with e | e <;> rw [e] <;> decide
  | discard _ hph | apduErr _ _ hph | apduDone _ _ hph => exact mem_phaseMoves_self (by simp [hph])
  | begin _ _ _ _ _ hph | apduPart _ _ _ _ _ hph | sent _ _ _ _ _ hph | present _ _ _ hph | timeout _ _ hph
  | received _ _ _ hph | receivedLong _ _ _ hph | failure _ _ hph | sendErr _ _ _ _ hph | pollErr _ _ hph
  | readErr _ _ _ hph | failureWarm _ _ hph =>
    rw [hph]
    simp [phaseMoves]

/-! ### Reset, INIT, and storing a response -/

/-- Settles O23: INIT is accepted while no operation runs, and LRC is supported, so that every record is usable. -/
theorem initLoadsAndResets : Obligations.InitLoadsAndResets := by
  intro a s hb
  have haccept : acceptInit s = none := by simp [acceptInit, hb]
  have husable : usableAtp Config.lrcSupported (some a) = some a := by simp [usableAtp, Config.lrcSupported]
  show initOp Config.lrcSupported (some a) s = .next (s.initWith a)
  simp only [initOp, haccept, husable]

/-- Settles O46: the reset values are R30's, and UNINIT waits in every state. -/
theorem resetWaitsForInit : Obligations.ResetWaitsForInit :=
  ⟨rfl, rfl, rfl, rfl, fun _ hp hph => step_uninit hp hph⟩

/-- Settles O47: the registers of zeros are blocks the engine may hold, and UNINIT asks for nothing more. -/
theorem resetSatisfiesInvariant : Obligations.ResetSatisfiesInvariant where
  txBuf := reset_buffers_wf.1
  rxBuf := reset_buffers_wf.2
  origWf := rfl
  lastTxWf := rfl
  origNad := rfl
  lastTxNad := rfl
  origPcb := by decide
  lastTxPcb := by decide
  initialized := by decide
  ifsd h := absurd rfl h
  nbwt := by decide
  readNad := by decide
  evalNad := by decide
  evalLen := by decide
  evalParse := by decide
  uninitApdu _ := rfl
  idleApdu := by decide
  noOutcome := by decide

theorem storeResp_of_fits {respMax : Option Nat} {data : List Byte} (s : State) (h : fitsResp respMax data = true) :
    s.storeResp respMax data = { s with resp := data } := by
  simp [State.storeResp, h]

/-- What a response beyond the capacity leaves (log entry 26). -/
theorem storeResp_of_exceeds {n : Nat} {data : List Byte} (s : State) (h : n < data.length) :
    s.storeResp (some n) data = { s with resp := (Config.freeBytes s.free).take n, free := s.free + 1 } := by
  simp [State.storeResp, fitsResp, capResp, h]

theorem fitsResp_iff (respMax : Option Nat) (data : List Byte) :
    fitsResp respMax data = true ↔ ∀ n, respMax = some n → data.length ≤ n := by
  cases respMax <;> simp [fitsResp]

/-- Settles O57, by whether the response fits. -/
theorem responseStaysWithinCapacity : Obligations.ResponseStaysWithinCapacity := by
  intro respMax data s
  refine ⟨fun hfits => storeResp_of_fits s ((fitsResp_iff _ _).2 hfits), ?_⟩
  rintro n rfl hn
  rw [storeResp_of_exceeds s hn]
  exact ⟨List.length_take_le _ _, rfl⟩

end Sys2Proof.EngineState
end

section
/-! PROOFS. The buffers and the fragments: where TO_BYTES puts each part of the frame (R41, R44, R100), and the limit on
the blocks that a transfer builds (R54). -/

namespace Sys2Proof.FrameLayout

open Sys2Proof.Machine Sys2Proof.Safety

/-! ### The frame in the buffer -/

/-- A register's frame is its four fields and the epilogue over them, since its LEN is its data's length (R41). -/
theorem image_of_wf (k : ChecksumKind) {t : Tpdu} (ht : t.wf = true) :
    image k t.nad t.pcb t.data =
      (t.nad :: t.pcb :: t.len :: t.data) ++ epilogue k (checksum k (t.nad :: t.pcb :: t.len :: t.data)) := by
  obtain ⟨-, hd⟩ := (Tpdu.wf_iff t).1 ht
  have hlen : BitVec.ofNat 8 t.data.length = t.len := by rw [hd]; simp
  rw [image, hlen]

/-- After TO_BYTES the prologue and the data stand at offset 0, and their epilogue right behind them (R41, R100). -/
theorem toBytes_layout {k : ChecksumKind} {t : Tpdu} {buf m : Memory} {n : Nat} (hw : buf.wf = true)
    (ht : t.wf = true) (h : toBytes k t buf = .ok (m, n)) :
    m.bytes 0 (3 + t.len.toNat) = t.nad :: t.pcb :: t.len :: t.data ∧
      m.bytes (3 + t.len.toNat) (epilogueLen k) =
        epilogue k (checksum k (t.nad :: t.pcb :: t.len :: t.data)) := by
  obtain ⟨-, hd⟩ := (Tpdu.wf_iff t).1 ht
  have hframe := image_bytes k hw ht
  rw [toBytes_eq k hw ht] at h
  cases h
  rw [Memory.bytes_add, image_of_wf k ht, Nat.zero_add] at hframe
  rw [image_of_wf k ht]
  exact List.append_inj hframe (by simp; omega)

/-- PARSE finds the frame's LEN where TO_BYTES put it (R102). -/
theorem toBytes_frameLen {k : ChecksumKind} {t : Tpdu} {buf m : Memory} {n : Nat} (hw : buf.wf = true)
    (ht : t.wf = true) (h : toBytes k t buf = .ok (m, n)) : frameLen m = t.len.toNat := by
  obtain ⟨hfields, -⟩ := toBytes_layout hw ht h
  rw [Nat.add_comm] at hfields
  simp only [Memory.bytes, List.cons.injEq] at hfields
  obtain ⟨-, -, hlen, -⟩ := hfields
  exact congrArg BitVec.toNat hlen

/-- Settles O10: the epilogue's two bytes follow the data, and PARSE reads them at the offset that LEN gives. -/
theorem crcTravelsLowByteFirst : Obligations.CrcTravelsLowByteFirst := by
  intro t buf m n hw ht h
  obtain ⟨-, hepi⟩ := toBytes_layout hw ht h
  simp only [epilogueLen, epilogue, checksum, Memory.bytes, List.cons.injEq] at hepi
  obtain ⟨hlow, hhigh, -⟩ := hepi
  have hsum : (parse .crc m).checksum = epilogueValue (m.bytes (3 + t.len.toNat) 2) := by
    rw [← toBytes_frameLen hw ht h]; rfl
  exact ⟨hlow, hhigh, hsum⟩

/-- Settles O11: TO_BYTES is one store of the frame at offset 0, which fits the buffer. -/
theorem toBytesLaysOutTheFrame : Obligations.ToBytesLaysOutTheFrame := by
  intro k t buf hw ht
  have hfit := image_fits k ht
  refine ⟨_, _, toBytes_eq k hw ht, Memory.writeList_wf hw hfit, rfl, image_bytes k hw ht, fun a ha => ?_⟩
  obtain ⟨-, hd⟩ := (Tpdu.wf_iff t).1 ht
  rw [Memory.read_writeList hw hfit, image_length, if_neg (by omega)]

/-! ### The fragments -/

/-- A block with the data of one fragment keeps to the limit (R97 e). -/
theorem built_len_le {k : ChecksumKind} {pcb ifsc : Byte} {frag : List Byte} (h : frag.length ≤ fragLimit ifsc) :
    (built k pcb frag).len.toNat ≤ min ifsc.toNat 254 := by
  obtain ⟨hlen, -⟩ := ofNat_len (h.trans (fragLimit_le ifsc))
  calc (built k pcb frag).len.toNat = frag.length := hlen
    _ ≤ min ifsc.toNat 254 := h

/-- An XFER_PART that goes on sends its command as one fragment (R122). -/
theorem execXferPart_lastTx {cmd : List Byte} {isLast : Bool} {s t : State} (h : execXferPart cmd isLast s = .next t) :
    cmd.length ≤ fragLimit s.atp.ifsc ∧ ∃ k pcb, t.lastTx = built k pcb cmd := by
  unfold execXferPart xferPartOp at h
  split at h
  · cases h
  · rcases startPart_cases cmd isLast { s with outcome := none } with ⟨-, he⟩ | ⟨hl, pcb, -, he⟩ <;>
      rw [he] at h <;> cases h
    exact ⟨hl, _, pcb, rfl⟩

/-- An XFER_APDU that goes on sends a fragment within the limit (R127). -/
theorem execXferApdu_lastTx {cmd : List Byte} {s t : State} (h : execXferApdu cmd s = .next t) :
    ∃ k pcb frag, frag.length ≤ fragLimit s.atp.ifsc ∧ t.lastTx = built k pcb frag := by
  unfold execXferApdu xferApduOp at h
  split at h
  · cases h
  · split at h
    · cases h
    · rcases sendFragment_cases { cmd := cmd, off := 0, chunk := 0, out := [], side := .command, part := none }
        { s with outcome := none } with ⟨-, he⟩ | ⟨pcb, frag, _, -, hl, he⟩ <;> rw [he] at h <;> cases h
      exact ⟨_, pcb, frag, hl, rfl⟩

/-- The wrapper that goes on to an exchange sends a fragment within the limit (R127). -/
theorem idlePhase_lastTx {s t : State} (hs : s.phase = .idle) (h : idlePhase s = .next t) (ht : t.phase = .send) :
    ∃ k pcb frag, frag.length ≤ fragLimit s.atp.ifsc ∧ t.lastTx = built k pcb frag := by
  unfold idlePhase at h
  split at h
  · cases h
    simp [hs] at ht
  · rename_i x _
    split at h
    · cases h
    · rename_i o _
      rcases resumeApdu_cases x o s with ⟨k, he⟩ | ⟨d, he⟩ | he | ⟨pcb, frag, _, -, hl, he⟩ <;>
        rw [he] at h <;> cases h
      · simp [hs] at ht
      · simp [hs] at ht
      · exact ⟨_, pcb, frag, hl, rfl⟩

/-- Settles O31: each of the three beginnings sends one fragment. -/
theorem fragmentsRespectIfsc : Obligations.FragmentsRespectIfsc := by
  refine ⟨fun cmd isLast s t h => ?_, fun cmd s t h => ?_, fun s t hp hs h ht => ?_⟩
  · obtain ⟨hl, k, pcb, e⟩ := execXferPart_lastTx h
    rw [e]
    exact ⟨built_len_le hl, rfl⟩
  · obtain ⟨k, pcb, frag, hl, e⟩ := execXferApdu_lastTx h
    rw [e]
    exact built_len_le hl
  · rw [step_idle hp hs] at h
    obtain ⟨k, pcb, frag, hl, e⟩ := idlePhase_lastTx hs h ht
    rw [e]
    exact built_len_le hl

end Sys2Proof.FrameLayout
end

section
/-! PROOFS. What a step puts out: its events are none, one frame with the window armed for it, or the deletion of the
cached file. Half-duplex and the cache's rule are read off these three. -/

namespace Sys2Proof.StepOutput

open Sys2Proof.Machine Sys2Proof.Safety

/-- The events that a step from `s` to `t` adds (R9), with what else they say of the step. -/
inductive Output (s t : State) : Prop where
  /-- Nothing is put out. -/
  | silent (he : t.events = s.events)
  /-- The link takes a frame, and the window opens (R110, R190). -/
  | frame (bytes : List Byte) (k : Byte) (bwt : Nat) (hs : s.phase = .send) (ht : t.phase = .wait)
      (he : t.events = s.events ++ [.linkWrite bytes, .timerArm k bwt])
  /-- The WARM_RESET action deletes the cached file and begins its exchange (R169). -/
  | cacheDeleted (hr : t.recovery = .warmReset) (ht : t.phase = .send) (hb : t.lastTx.pcb = 0xCF#8)
      (he : t.events = s.events ++ [.atpCacheDelete])

/-- The entry into recovery deletes the file exactly when it takes the WARM_RESET action (R169, R186). -/
theorem inRecovery_output {s u : State} (hu : u.events = s.events) : Output s (inRecovery u) := by
  by_cases hr : escalated u.recovery u.firstTransmission = .warmReset
  · refine .cacheDeleted hr rfl ?_ ?_ <;> simp [inRecovery, sending, built, recoveryPcb, hr, hu]
  · exact .silent (by simp [inRecovery, sending, hr, hu])

/-- A received block's meaning puts nothing out, but for an R-block that enters recovery (R147). -/
theorem blockMove_output {i : Instr} {s u t : State} (hm : BlockMove i u t) (hu : u.events = s.events) :
    Output s t := by
  cases hm with
  | recover => exact inRecovery_output hu
  | resend | resynchReq | resynchRspSame | ifsReq | wtxReq => exact .silent hu
  | iBlock | ack | resynchRsp | swresetRsp | noHandler => exact .silent (by simp [hu])

theorem events_of_sumReceived {s u : State} (hu : u = s ∨ u = s.sumReceived) : u.events = s.events := by
  rcases hu with rfl | rfl <;> simp

/-- What any step puts out. -/
theorem step_output {s t : State} (h : step s = .next t) : Output s t := by
  cases step_move h with
  | sent _ _ bytes _ _ hs => exact .frame bytes s.nbwt s.atp.bwt hs rfl rfl
  | failure u _ _ _ hu => exact inRecovery_output (events_of_sumReceived hu)
  | failureWarm u _ _ _ hu => exact .silent (by simp [events_of_sumReceived hu])
  | block _ _ _ _ _ hm => exact blockMove_output hm (by simp [State.settled])
  | initOk | initFailed | begin | stay | discard | apduErr | apduDone | apduPart | present | timeout | received
  | receivedLong => exact .silent rfl
  | sendErr | pollErr | readErr => exact .silent (by simp)

/-! ### The card's stream -/

theorem inRecovery_linkRd (s : State) : (inRecovery s).linkRd = s.linkRd := rfl

/-- A received block's meaning takes nothing of the stream. -/
theorem blockMove_linkRd {i : Instr} {s t : State} (hm : BlockMove i s t) : t.linkRd = s.linkRd := by
  cases hm with
  | resend | recover | resynchReq | resynchRspSame | ifsReq | wtxReq => rfl
  | iBlock | ack | resynchRsp | swresetRsp | noHandler => simp

/-- Only polling and reading a block take draws of the stream (R111, R112). -/
theorem step_linkRd {s t : State} (h : step s = .next t) :
    t.linkRd = s.linkRd ∨ s.phase = .wait ∨ s.phase = .read := by
  cases step_move h with
  | discard _ hs | present _ _ _ hs | timeout _ _ hs | pollErr _ _ hs => exact .inr (.inl hs)
  | readErr _ _ _ hs | received _ _ _ hs | receivedLong _ _ _ hs => exact .inr (.inr hs)
  | block _ _ _ _ _ hm => exact .inl ((blockMove_linkRd hm).trans (by simp [State.settled]))
  | failure _ _ _ _ hu => rcases hu with rfl | rfl <;> exact .inl (by simp [inRecovery_linkRd])
  | failureWarm _ _ _ _ hu => rcases hu with rfl | rfl <;> exact .inl (by simp)
  | initOk | initFailed | begin | stay | apduErr | apduDone | apduPart => exact .inl rfl
  | sent | sendErr => exact .inl (by simp)

/-! ### The two statements -/

/-- The frames of more events are those of the events before and those of the new ones. -/
theorem framesSent_append (es es' : List Event) : framesSent (es ++ es') = framesSent es ++ framesSent es' :=
  List.filterMap_append

/-- Settles O54: of a step's outputs one holds a frame, and only polling and reading touch the stream. -/
theorem halfDuplexDiscipline : Obligations.HalfDuplexDiscipline := by
  intro s t h
  refine ⟨?_, fun hn => (step_linkRd h).resolve_left hn⟩
  cases step_output h with
  | silent he => exact .inl (congrArg framesSent he)
  | frame bytes _ _ hs ht he => exact .inr ⟨hs, ht, bytes, by rw [he, framesSent_append]; rfl⟩
  | cacheDeleted _ _ _ he => exact .inl (by rw [he, framesSent_append]; exact List.append_nil _)

/-- Settles O55: of a step's outputs only the third holds the deletion. -/
theorem cacheDeletedOnlyByWarmReset : Obligations.CacheDeletedOnlyByWarmReset := by
  intro s t h hdel
  cases step_output h with
  | silent he => simp [he] at hdel
  | frame _ _ _ _ _ he => simp [he] at hdel
  | cacheDeleted hr ht hb he => exact ⟨hr, ht, hb, he⟩

end Sys2Proof.StepOutput
end

section
/-! PROOFS. No fault: host operations and the link's phases fault in no state; SEND and EVAL do not where the registers
and the received block are well formed, and IDLE does not where the wrapper is in step. `Inv` gives these, and every
step keeps it. -/

namespace Sys2Proof.Faultless

open Sys2Proof.Machine Sys2Proof.Safety

/-! ### The instructions -/

theorem startPart_ne_fault {cmd : List Byte} {isLast : Bool} {s : State} {f : Fault} :
    startPart cmd isLast s ≠ .fault f := by
  rcases startPart_cases cmd isLast s with ⟨-, e⟩ | ⟨-, _, -, e⟩ <;> rw [e] <;> nofun

theorem sendFragment_ne_fault {x : ApduRun} {s : State} {f : Fault} : sendFragment x s ≠ .fault f := by
  rcases sendFragment_cases x s with ⟨-, e⟩ | ⟨_, _, _, -, -, e⟩ <;> rw [e] <;> nofun

theorem resumeApdu_ne_fault {x : ApduRun} {o : OpOutcome} {s : State} {f : Fault} : resumeApdu x o s ≠ .fault f := by
  rcases resumeApdu_cases x o s with ⟨_, e⟩ | ⟨_, e⟩ | e | ⟨_, _, _, -, -, e⟩ <;> rw [e] <;> nofun

theorem responseFailure_ne_fault {s : State} {f : Fault} : responseFailure s ≠ .fault f := by
  rw [responseFailure_eq]; nofun

theorem processR_ne_fault {nr : Seq} {s : State} {f : Fault} : processR nr s ≠ .fault f := by
  unfold processR
  split_ifs
  · nofun
  · nofun
  · nofun
  · rw [doRecovery_eq]; nofun

/-- No instruction faults, in any state: what a meaning cannot do it refuses. -/
theorem exec_ne_fault (i : Instr) (s : State) (f : Fault) : exec i s ≠ .fault f := by
  cases i <;> simp only [exec]
  case i | sAbortReq | sAbortRsp | sWtxRsp | sIfsRsp | sSwresetReq | sSwresetRsp => nofun
  case rOk | rCkerr | rOther => exact processR_ne_fault
  case sResynchReq | sIfsReq | sWtxReq => exact sendBlock_ne_fault
  case sResynchRsp =>
    unfold execSResynchRsp
    split_ifs
    · exact sendOrig_ne_fault
    · exact sendOrig_ne_fault
    · nofun
  case init =>
    unfold execInit initOp
    split
    · nofun
    · split <;> nofun
  case xferPart =>
    unfold execXferPart xferPartOp
    split
    · nofun
    · exact startPart_ne_fault
  case xferApdu =>
    unfold execXferApdu xferApduOp
    split
    · nofun
    · split_ifs
      · nofun
      · exact sendFragment_ne_fault

theorem portPhase_ne_fault {c : CmdPort} {s : State} {f : Fault} : portPhase c s ≠ .fault f := by
  unfold portPhase
  split
  · exact exec_ne_fault _ _ f
  · nofun

/-! ### The exchange -/

theorem memWrite_ne_error {m : Memory} {off : Nat} {bs : List Byte} {f : Fault} (h : off + bs.length ≤ tpduMax) :
    memWrite m off bs ≠ .error f := by
  rw [memWrite_in_range h]; nofun

/-- A well-formed register's frame fits the buffer (R100). -/
theorem sendPhase_ne_fault {s : State} {f : Fault} (hb : s.txBuf.wf = true) (ht : s.lastTx.wf = true) :
    sendPhase s ≠ .fault f := by
  rw [sendPhase_eq hb ht]
  dsimp only
  split <;> nofun

theorem waitPhase_ne_fault {s : State} {f : Fault} : waitPhase s ≠ .fault f := by
  unfold waitPhase
  split
  · nofun
  · nofun
  · nofun
  · split
    · rename_i hb
      exact absurd hb (memWrite_ne_error (by decide))
    · nofun

/-- At most 254 data bytes are stored, and an epilogue behind them only for a legal LEN: both fit (R40, R113). -/
theorem readRest_ne_fault {pcb len : Byte} {draws : List ReadDraw} {s : State} {f : Fault} :
    readRest pcb len draws s ≠ .fault f := by
  have data_fits : ∀ data : List Byte, 3 + (data.take lenMax).length ≤ tpduMax := by
    intro data
    simp [lenMax, tpduMax]
    omega
  unfold readRest
  split
  · rename_i hb
    exact absurd hb (memWrite_ne_error (by simp [tpduMax]))
  split
  · nofun
  · nofun
  · split
    · rename_i hb
      exact absurd hb (memWrite_ne_error (data_fits _))
    · nofun
  · rename_i hbody
    split
    · rename_i hb
      exact absurd hb (memWrite_ne_error (data_fits _))
    split_ifs with hlen
    · nofun
    split
    · rename_i hb
      obtain ⟨-, hepi⟩ := readBody_got hbody
      have hl := len_le_of_ne hlen
      have hE := epilogueLen_le s.atp.checksum
      exact absurd hb (memWrite_ne_error (by rw [hepi]; simp only [tpduMax]; omega))
    · nofun

theorem readPhase_ne_fault {s : State} {f : Fault} : readPhase s ≠ .fault f := by
  unfold readPhase
  split
  · exact readRest_ne_fault
  · nofun
  · nofun

/-! ### The received block -/

/-- An R-block without data has one of the four error kinds (R65, R75 a). -/
theorem decodeR_nil (err : BitVec 2) (nr : Seq) :
    (∃ i, decodeR err nr [] = .ok i) ∨ decodeR err nr [] = .error (.undefinedErrKind nr) := by
  unfold decodeR
  dsimp only
  split_ifs
  · exact .inl ⟨_, rfl⟩
  · exact .inl ⟨_, rfl⟩
  · exact .inl ⟨_, rfl⟩
  · exact .inr rfl

/-- Check 3 leaves an S-block a known type and that type's number of data bytes (R68, R138). -/
theorem decodeS_of_sLenOk {stype : BitVec 4} {rsp : Bool} {len : Byte} {data : List Byte}
    (h : sLenOk stype len = true) (hd : data.length = len.toNat) : ∃ i, decodeS stype rsp data = .ok i := by
  unfold sLenOk at h
  split_ifs at h with hone hzero hreset
  · obtain ⟨b, rfl⟩ : ∃ b, data = [b] := List.length_eq_one_iff.1 (by simpa [beq_iff_eq.1 h] using hd)
    rcases hone with rfl | rfl <;> exact ⟨_, rfl⟩
  · obtain rfl : data = [] := List.length_eq_zero_iff.1 (by simpa [beq_iff_eq.1 h] using hd)
    rcases hzero with rfl | rfl <;> exact ⟨_, rfl⟩
  · subst hreset
    exact ⟨_, rfl⟩

/-- A consistent block with LEN data bytes is an instruction, or the R-block of the undefined kind (R75, R135). -/
theorem decodeFields_of_consistent {s : State} (hc : consistent s = 0)
    (hd : s.lastRx.data.length = s.lastRx.len.toNat) :
    (∃ i, decodeFields s.lastRx.pcb s.lastRx.len s.lastRx.data = .ok i) ∨
      ∃ nr, decodeFields s.lastRx.pcb s.lastRx.len s.lastRx.data = .error (.undefinedErrKind nr) := by
  obtain ⟨-, hbits, hlen, -, -⟩ := (consistent_eq_zero s).1 hc
  unfold check3 at hlen
  split_ifs at hlen with h255
  rw [decodeFields_of_fits hbits h255 hd]
  cases hk : blockKind s.lastRx.pcb with
  | I => exact .inl ⟨_, rfl⟩
  | R =>
    simp only [hk] at hlen ⊢
    have hnil : s.lastRx.data = [] := List.length_eq_zero_iff.1 (by simpa [beq_iff_eq.1 hlen] using hd)
    rw [hnil]
    exact (decodeR_nil _ _).imp_right fun e => ⟨_, e⟩
  | S =>
    simp only [hk] at hlen ⊢
    exact .inl (decodeS_of_sLenOk hlen hd)

/-- In EVAL under the invariant a consistent block has as many data bytes as its LEN says (R104, R112). -/
theorem data_length_of_consistent {s : State} (h : Safety.Inv s) (hph : s.phase = .eval) (hr : s.rxLen ≠ 0#9)
    (hc : consistent s = 0) : s.lastRx.data.length = s.lastRx.len.toNat := by
  obtain ⟨-, -, hlen, -, -⟩ := (consistent_eq_zero s).1 hc
  have h255 : s.lastRx.len ≠ 255#8 := fun e => by simp [check3, e] at hlen
  have hparse := h.evalParse hph hr h255
  rw [hparse] at h255 ⊢
  exact parse_data_length h255

theorem evalPhase_ne_fault {s : State} {f : Fault} (h : Safety.Inv s) (hph : s.phase = .eval) :
    evalPhase s ≠ .fault f := by
  unfold evalPhase
  split_ifs with hr hc
  · exact responseFailure_ne_fault
  · exact responseFailure_ne_fault
  · push Not at hc
    unfold dispatchBlock
    simp only [State.settle_lastRx, State.sumReceived_lastRx]
    have hd := data_length_of_consistent h hph hr hc
    rcases decodeFields_of_consistent hc hd with ⟨i, e⟩ | ⟨nr, e⟩ <;> rw [e]
    · exact exec_ne_fault i _ f
    · exact processR_ne_fault

/-! ### The step and the run -/

theorem idlePhase_ne_fault {s : State} {f : Fault} (h : Safety.Inv s) (hph : s.phase = .idle) :
    idlePhase s ≠ .fault f := by
  cases hx : s.apdu with
  | none => rw [idlePhase_none hx]; nofun
  | some x =>
    obtain ⟨o, ho⟩ := Option.isSome_iff_exists.1 (h.idleApdu hph x hx)
    rw [idlePhase_part hx ho]
    exact resumeApdu_ne_fault

/-- No step from a state of the invariant faults. -/
theorem noFault_of_inv {s : State} (h : Safety.Inv s) : NoFault s := by
  intro f
  cases hp : s.port with
  | some c => rw [step_port hp]; exact portPhase_ne_fault
  | none =>
    cases hph : s.phase with
    | uninit => rw [step_uninit hp hph]; nofun
    | idle => rw [step_idle hp hph]; exact idlePhase_ne_fault h hph
    | send => rw [step_send hp hph]; exact sendPhase_ne_fault h.txBuf h.lastTxWf
    | wait => rw [step_wait hp hph]; exact waitPhase_ne_fault
    | read => rw [step_read hp hph]; exact readPhase_ne_fault
    | eval => rw [step_eval hp hph]; exact evalPhase_ne_fault h hph

/-- A run ends where its first step is refused. -/
theorem run_succ_refused {s : State} {r : Refusal} (n : Nat) (h : step s = .refused r) :
    Sys2Proof.core.run (n + 1) s = .refused r := by
  have h' : Sys2Proof.core.step s = .refused r := h
  simp only [Host.Core.run, h']

/-- Settles O49, by induction on the steps: none faults, and each leaves a state of the invariant. -/
theorem invariantRunsNeverFault : Obligations.InvariantRunsNeverFault := by
  intro n
  induction n with
  | zero => intro s _ f; nofun
  | succ n ih =>
    intro s h f
    cases hs : step s with
    | next t => rw [run_succ n hs]; exact ih t (EngineState.stepKeepsInvariant s t h hs) f
    | fault g => exact absurd hs (noFault_of_inv h g)
    | refused r => rw [run_succ_refused n hs]; nofun

end Sys2Proof.Faultless
end

section
/-! PROOFS. The encoding: a wire block's instruction stands for one PCB and one data list, the encoder frames these two,
and the decoder inverts them. The round trips, and the consistent block in RXBUF, are read off this. -/

namespace Sys2Proof.BlockEncoding

open Sys2Proof.Machine Sys2Proof.Safety

/-! ### The PCB byte -/

/-- The PCB of an S-block: `11 rsp 0 tttt` (R66). -/
def encodePcbS (rsp : Bool) (stype : BitVec 4) : Byte := (if rsp then 0xE0#8 else 0xC0#8) ||| stype.setWidth 8

theorem encodePcbI_fields : ∀ (ns : Seq) (more : Bool),
    pcbReservedClear (encodePcbI ns more) = true ∧ blockKind (encodePcbI ns more) = .I ∧
      pcbNs (encodePcbI ns more) = ns ∧ pcbMore (encodePcbI ns more) = more := by decide

theorem encodePcbR_fields : ∀ (nr : Seq) (err : BitVec 2),
    pcbReservedClear (encodePcbR nr err) = true ∧ blockKind (encodePcbR nr err) = .R ∧
      pcbNr (encodePcbR nr err) = nr ∧ pcbErr (encodePcbR nr err) = err := by decide

theorem encodePcbS_fields : ∀ (rsp : Bool) (stype : BitVec 4),
    pcbReservedClear (encodePcbS rsp stype) = true ∧ blockKind (encodePcbS rsp stype) = .S ∧
      pcbRsp (encodePcbS rsp stype) = rsp ∧ pcbStype (encodePcbS rsp stype) = stype := by decide

/-- A PCB with its reserved bits clear is assembled from the fields of its kind (R62, R74). -/
theorem pcb_cases {pcb : Byte} (h : pcbReservedClear pcb = true) :
    (∃ ns more, pcb = encodePcbI ns more) ∨ (∃ nr err, pcb = encodePcbR nr err) ∨
      ∃ rsp stype, pcb = encodePcbS rsp stype := by
  have by_kind : ∀ pcb : Byte, pcbReservedClear pcb = true → pcb =
      match blockKind pcb with
      | .I => encodePcbI (pcbNs pcb) (pcbMore pcb)
      | .R => encodePcbR (pcbNr pcb) (pcbErr pcb)
      | .S => encodePcbS (pcbRsp pcb) (pcbStype pcb) := by decide
  have e := by_kind pcb h
  cases hk : blockKind pcb <;> rw [hk] at e
  case I => exact .inl ⟨_, _, e⟩
  case R => exact .inr (.inl ⟨_, _, e⟩)
  case S => exact .inr (.inr ⟨_, _, e⟩)

/-! ### Decoding an assembled PCB -/

section
variable {len : Byte} {data : List Byte} (h255 : len ≠ 255#8) (hlen : data.length = len.toNat)
include h255 hlen

theorem decodeFields_encodePcbI (ns : Seq) (more : Bool) :
    decodeFields (encodePcbI ns more) len data = .ok (.i ns more data) := by
  obtain ⟨hclear, hkind, hns, hmore⟩ := encodePcbI_fields ns more
  simp only [decodeFields_of_fits hclear h255 hlen, hkind, hns, hmore]

theorem decodeFields_encodePcbR (nr : Seq) (err : BitVec 2) :
    decodeFields (encodePcbR nr err) len data = decodeR err nr data := by
  obtain ⟨hclear, hkind, hnr, herr⟩ := encodePcbR_fields nr err
  simp only [decodeFields_of_fits hclear h255 hlen, hkind, hnr, herr]

theorem decodeFields_encodePcbS (rsp : Bool) (stype : BitVec 4) :
    decodeFields (encodePcbS rsp stype) len data = decodeS stype rsp data := by
  obtain ⟨hclear, hkind, hrsp, hstype⟩ := encodePcbS_fields rsp stype
  simp only [decodeFields_of_fits hclear h255 hlen, hkind, hrsp, hstype]

end

/-- Only fields that fit the formats decode, or have the undefined error kind (R11, R68, R74). -/
theorem decodeFields_fits {pcb len : Byte} {data : List Byte}
    (h : (∃ i, decodeFields pcb len data = .ok i) ∨ ∃ nr, decodeFields pcb len data = .error (.undefinedErrKind nr)) :
    pcbReservedClear pcb = true ∧ len ≠ 255#8 ∧ data.length = len.toNat := by
  unfold decodeFields at h
  split_ifs at h with hclear h255 hlen
  · simp at h
  · simp at h
  · simp at h
  · exact ⟨by simpa using hclear, h255, by simpa using hlen⟩

/-! ### The fields an instruction stands for -/

/-- The PCB and the data of a wire block, none for a host operation (R67). -/
def wireFields : Instr → Option (Byte × List Byte)
  | .i ns more data => some (encodePcbI ns more, data)
  | .rOk nr => some (encodePcbR nr 0#2, [])
  | .rCkerr nr => some (encodePcbR nr 1#2, [])
  | .rOther nr => some (encodePcbR nr 2#2, [])
  | .sResynchReq => some (encodePcbS false 0x0#4, [])
  | .sResynchRsp => some (encodePcbS true 0x0#4, [])
  | .sIfsReq b => some (encodePcbS false 0x1#4, [b])
  | .sIfsRsp b => some (encodePcbS true 0x1#4, [b])
  | .sAbortReq => some (encodePcbS false 0x2#4, [])
  | .sAbortRsp => some (encodePcbS true 0x2#4, [])
  | .sWtxReq b => some (encodePcbS false 0x3#4, [b])
  | .sWtxRsp b => some (encodePcbS true 0x3#4, [b])
  | .sSwresetReq data => some (encodePcbS false 0xF#4, data)
  | .sSwresetRsp data => some (encodePcbS true 0xF#4, data)
  | .init _ => none
  | .xferPart _ _ => none
  | .xferApdu _ => none

theorem isBlock_of_wireFields {i : Instr} {f : Byte × List Byte} (h : wireFields i = some f) : isBlock i = true := by
  cases i
  case init | xferPart | xferApdu => cases h
  all_goals rfl

/-- A wire block is well formed when LEN can count its data (R60). -/
theorem wf_iff_of_wireFields {i : Instr} {pcb : Byte} {data : List Byte} (h : wireFields i = some (pcb, data)) :
    i.wf = true ↔ data.length ≤ lenMax := by
  cases i <;> cases h
  case i | sSwresetReq | sSwresetRsp => exact decide_eq_true_iff
  all_goals simp [Instr.wf, lenMax]

/-- The encoder frames the fields (R41, R67). -/
theorem encode_of_wireFields {i : Instr} {pcb : Byte} {data : List Byte} (k : ChecksumKind)
    (h : wireFields i = some (pcb, data)) : encode k i = .block (cardFrame k pcb data) := by
  cases i <;> cases h <;> rfl

/-- A host operation goes to the port and is decoded there (R81). -/
theorem decode_encode_of_port {i : Instr} (k : ChecksumKind) (h : wireFields i = none) :
    ∃ c, encode k i = .port c ∧ decodeCmd c = .ok i := by
  cases i
  case init | xferPart | xferApdu => exact ⟨_, rfl, rfl⟩
  all_goals cases h

theorem wireFields_of_decodeR {err : BitVec 2} {nr : Seq} {data : List Byte} {i : Instr}
    (h : decodeR err nr data = .ok i) : wireFields i = some (encodePcbR nr err, data) := by
  unfold decodeR at h
  split at h
  · split_ifs at h with h0 h1 h2
    · cases h; rw [h0]; rfl
    · cases h; rw [h1]; rfl
    · cases h; rw [h2]; rfl
  · cases h

theorem wireFields_of_decodeS {stype : BitVec 4} {rsp : Bool} {data : List Byte} {i : Instr}
    (h : decodeS stype rsp data = .ok i) : wireFields i = some (encodePcbS rsp stype, data) := by
  unfold decodeS at h
  repeat' split at h
  all_goals cases h
  all_goals simp [wireFields, *]

/-- Decoding inverts the assembly of the fields, in both directions (R67). -/
theorem decodeFields_eq_ok_iff {pcb len : Byte} {data : List Byte} {i : Instr} :
    decodeFields pcb len data = .ok i ↔
      len ≠ 255#8 ∧ data.length = len.toNat ∧ wireFields i = some (pcb, data) := by
  constructor
  · intro h
    obtain ⟨hclear, h255, hlen⟩ := decodeFields_fits (.inl ⟨i, h⟩)
    refine ⟨h255, hlen, ?_⟩
    rcases pcb_cases hclear with ⟨ns, more, rfl⟩ | ⟨nr, err, rfl⟩ | ⟨rsp, stype, rfl⟩
    · rw [decodeFields_encodePcbI h255 hlen] at h
      cases h
      rfl
    · rw [decodeFields_encodePcbR h255 hlen] at h
      exact wireFields_of_decodeR h
    · rw [decodeFields_encodePcbS h255 hlen] at h
      exact wireFields_of_decodeS h
  · rintro ⟨h255, hlen, h⟩
    cases i with
    | i => cases h; exact decodeFields_encodePcbI h255 hlen _ _
    | rOk | rCkerr | rOther => cases h; exact decodeFields_encodePcbR h255 hlen _ _
    | init | xferPart | xferApdu => cases h
    | _ => cases h; exact decodeFields_encodePcbS h255 hlen _ _

/-! ### The frame -/

/-- The reader of a stream takes the frame and leaves what follows it: LEN and the epilogue kind cut the stream where the
data and the epilogue end (R60, R77). -/
theorem decodeFrame_cardFrame {pcb : Byte} {data : List Byte} {i : Instr} (k : ChecksumKind) (rest : List Byte)
    (hlen : data.length ≤ lenMax) (h : wireFields i = some (pcb, data)) :
    decodeFrame k (cardFrame k pcb data ++ rest) = .ok (i, rest) := by
  obtain ⟨hL, h255⟩ := ofNat_len hlen
  have hfields : decodeFields pcb (BitVec.ofNat 8 data.length) data = .ok i :=
    decodeFields_eq_ok_iff.2 ⟨h255, hL.symm, h⟩
  simp only [cardFrame, List.cons_append, List.append_assoc, decodeFrame, hL]
  simp [hfields]

theorem decode_cardFrame {pcb : Byte} {data : List Byte} {i : Instr} (k : ChecksumKind)
    (hlen : data.length ≤ lenMax) (h : wireFields i = some (pcb, data)) :
    decode k (.block (cardFrame k pcb data)) = .ok i := by
  have hframe := decodeFrame_cardFrame k [] hlen h
  rw [List.append_nil] at hframe
  simp only [decode, hframe]

/-! ### The round trips -/

/-- Settles O1: a block's fields are framed and read back, and a host operation comes back from the port. -/
theorem decodeOfEncodeIsIdentity : Obligations.DecodeOfEncodeIsIdentity := by
  intro k i hwf
  cases h : wireFields i with
  | none =>
    obtain ⟨c, hc, hdecode⟩ := decode_encode_of_port k h
    rw [hc]
    exact hdecode
  | some f =>
    rw [encode_of_wireFields k h]
    exact decode_cardFrame k ((wf_iff_of_wireFields h).1 hwf) h

/-- Settles O2: only wire blocks encode to bytes, and those are a frame. -/
theorem streamDecodeStopsAtBlockEnd : Obligations.StreamDecodeStopsAtBlockEnd := by
  intro k i bs rest hwf hbs
  cases h : wireFields i with
  | none =>
    obtain ⟨c, hc, -⟩ := decode_encode_of_port k h
    rw [hc] at hbs
    cases hbs
  | some f =>
    rw [encode_of_wireFields k h] at hbs
    cases hbs
    exact decodeFrame_cardFrame k rest ((wf_iff_of_wireFields h).1 hwf) h

/-- Settles O3: what decodes is the instruction's own PCB and data. -/
theorem encodeOfDecodedFieldsIsIdentity : Obligations.EncodeOfDecodedFieldsIsIdentity := by
  intro k pcb len data i hdecode
  obtain ⟨h255, hlen, h⟩ := decodeFields_eq_ok_iff.1 hdecode
  have hle : data.length ≤ lenMax := hlen ▸ len_le_of_ne h255
  exact ⟨encode_of_wireFields k h, (wf_iff_of_wireFields h).2 hle, h255, hlen⟩

/-- Settles O4: each block is its instruction's encoding, so that it decodes by the round trip; the port's words decode
by their operation code. -/
theorem specWordsDecode : Obligations.SpecWordsDecode := by
  have decode_of_encode {k : ChecksumKind} {i : Instr} {e : Encoded} (hwf : i.wf = true) (he : encode k i = e) :
      decode k e = .ok i := he ▸ decodeOfEncodeIsIdentity k i hwf
  exact ⟨decode_of_encode rfl (by decide +kernel), decode_of_encode rfl (by decide +kernel),
    decode_of_encode rfl (by decide +kernel), decode_of_encode rfl (by decide +kernel), rfl, rfl⟩

/-- Settles O5: `blockKind` tests bit 7, then bit 6; the counts are by evaluation. -/
theorem classifyFollowsTopTwoBits : Obligations.ClassifyFollowsTopTwoBits := by
  refine ⟨fun pcb h7 => ?_, fun pcb h7 h6 => ?_, fun pcb h7 h6 => ?_, ?_, ?_, ?_⟩
  · simp only [blockKind, h7, Bool.false_eq_true, if_false]
  · simp only [blockKind, h7, h6, Bool.false_eq_true, if_true, if_false]
  · simp only [blockKind, h7, h6, if_true]
  · decide +kernel
  · decide +kernel
  · decide +kernel

/-! ### The received block -/

/-- CHECKSUM_OK on a frame with a legal LEN (R102). -/
theorem checksumOk_iff {k : ChecksumKind} {m : Memory} (h255 : m.read 2 ≠ 255#8) :
    checksumOk k m = true ↔
      m.bytes (3 + frameLen m) (epilogueLen k) = epilogue k (checksum k (m.bytes 0 (3 + frameLen m))) := by
  simp [checksumOk, h255]

/-- PARSE splits the prologue and the data of a frame with a legal LEN (R104). -/
theorem bytes_eq_parse (k : ChecksumKind) {m : Memory} (h255 : m.read 2 ≠ 255#8) :
    m.bytes 0 (3 + frameLen m) = (parse k m).nad :: (parse k m).pcb :: (parse k m).len :: (parse k m).data := by
  have hmin : min (frameLen m) lenMax = frameLen m := Nat.min_eq_left (len_le_of_ne h255)
  rw [Memory.bytes_add]
  simp [Memory.bytes, parse, hmin]

/-- A block that passes the checks has a legal LEN (R139). -/
theorem len_ne_of_consistent {s : State} (hc : consistent s = 0) : s.lastRx.len ≠ 255#8 := by
  obtain ⟨-, -, hlen, -, -⟩ := (consistent_eq_zero s).1 hc
  intro e
  simp [check3, e] at hlen

/-- The received frame that passes the checks is the card's frame of the fields of `last_rx` (R104, R112, R136). -/
theorem rxBuf_bytes_of_consistent {s : State} (h : Safety.Inv s) (hph : s.phase = .eval) (hr : s.rxLen ≠ 0#9)
    (hc : consistent s = 0) :
    s.rxBuf.bytes 0 s.rxLen.toNat = cardFrame s.atp.checksum s.lastRx.pcb s.lastRx.data := by
  have h255 := len_ne_of_consistent hc
  have hparse := h.evalParse hph hr h255
  have hL : s.rxBuf.read 2 = s.lastRx.len := by rw [hparse]; rfl
  have hlen : BitVec.ofNat 8 s.lastRx.data.length = s.lastRx.len := by
    rw [Faultless.data_length_of_consistent h hph hr hc, BitVec.ofNat_toNat, BitVec.setWidth_eq]
  have hbody : s.rxBuf.bytes 0 (3 + frameLen s.rxBuf) =
      0x12#8 :: s.lastRx.pcb :: BitVec.ofNat 8 s.lastRx.data.length :: s.lastRx.data := by
    rw [bytes_eq_parse s.atp.checksum (hL ▸ h255), ← hparse, h.evalNad hph hr, hlen]
  have hepi := (checksumOk_iff (hL ▸ h255)).1 ((consistent_eq_zero s).1 hc).1
  have hrx : s.rxLen.toNat = 3 + frameLen s.rxBuf + epilogueLen s.atp.checksum := by
    have hle := len_le_of_ne h255
    have hE := epilogueLen_le s.atp.checksum
    rw [h.evalLen hph hr, frameLen, hL, BitVec.toNat_ofNat]
    omega
  rw [hrx, Memory.bytes_add, Nat.zero_add, hepi, hbody]
  rfl

/-- Error kind 11 is the one that a PCB may have and the table does not (R75 a). -/
theorem decodeFields_encodePcbR_three (nr : Seq) :
    decodeFields (encodePcbR nr 3#2) 0#8 [] = .error (.undefinedErrKind nr) :=
  decodeFields_encodePcbR (by decide) rfl nr 3#2

theorem errKind_of_decodeR_undefined {err : BitVec 2} {nr nr' : Seq} {data : List Byte}
    (h : decodeR err nr data = .error (.undefinedErrKind nr')) : err = 3#2 := by
  have fourth : ∀ e : BitVec 2, e ≠ 0#2 → e ≠ 1#2 → e ≠ 2#2 → e = 3#2 := by decide
  unfold decodeR at h
  split at h
  · split_ifs at h with h0 h1 h2
    exact fourth err h0 h1 h2
  · cases h

/-- An undefined error kind is that of PCB 83 or 93 (R75 a). -/
theorem pcb_of_undefined {pcb len : Byte} {data : List Byte} {nr : Seq}
    (h : decodeFields pcb len data = .error (.undefinedErrKind nr)) : pcb = 0x83#8 ∨ pcb = 0x93#8 := by
  have undefined_pcb : ∀ pcb : Byte, blockKind pcb = .R → pcbReservedClear pcb = true → pcbErr pcb = 3#2 →
      pcb = 0x83#8 ∨ pcb = 0x93#8 := by decide
  obtain ⟨hclear, h255, hlen⟩ := decodeFields_fits (.inr ⟨nr, h⟩)
  obtain ⟨hR, -⟩ := decodeFields_undefined h
  simp only [decodeFields_of_fits hclear h255 hlen, hR] at h
  exact undefined_pcb pcb hR hclear (errKind_of_decodeR_undefined h)

/-- Settles O38: the fields of `last_rx` decode, and the bytes in RXBUF are their frame. -/
theorem consistentBlockIsAnInstruction : Obligations.ConsistentBlockIsAnInstruction := by
  intro s h hph hr hc
  have hd := Faultless.data_length_of_consistent h hph hr hc
  rcases Faultless.decodeFields_of_consistent hc hd with ⟨i, hi⟩ | ⟨nr, hnr⟩
  · obtain ⟨h255, hlen, hfields⟩ := decodeFields_eq_ok_iff.1 hi
    have hle : s.lastRx.data.length ≤ lenMax := hlen ▸ len_le_of_ne h255
    refine .inl ⟨i, isBlock_of_wireFields hfields, (wf_iff_of_wireFields hfields).2 hle, ?_, hi⟩
    rw [rxBuf_bytes_of_consistent h hph hr hc]
    exact decode_cardFrame _ hle hfields
  · obtain ⟨-, rfl⟩ := decodeFields_undefined hnr
    exact .inr ⟨pcb_of_undefined hnr, hnr⟩

/-- A dispatched block is decoded in the state that step 3 of the handle loop leaves (R172). -/
theorem step_of_dispatches {s : State} (h : dispatches s) : step s = dispatchBlock s.sumReceived.settle := by
  obtain ⟨hport, hph, hr, hc⟩ := h
  rw [step_eval hport hph, evalPhase, if_neg hr, if_neg (not_not_intro hc)]

/-- Settles O40: error kind 11 has a meaning of its own, and both meanings are R147's. -/
theorem undefinedErrorKindActsAsRBlock : Obligations.UndefinedErrorKindActsAsRBlock := by
  intro nr s hdisp hlen hdata hpcb
  have pcb_eq : ∀ nr : Seq, 0x83#8 ||| (nr.setWidth 8 <<< 4) = encodePcbR nr 3#2 := by decide
  rw [step_of_dispatches hdisp, dispatchBlock]
  simp only [State.settle_lastRx, State.sumReceived_lastRx, hlen, hdata, hpcb, pcb_eq, decodeFields_encodePcbR_three]
  rfl

end Sys2Proof.BlockEncoding
end

section
/-! PROOFS. The checksum engines (40_checksum.md): a CRC is linear, so that a message's own CRC cancels its accumulator;
it is injective, so that one changed byte shows; and what an unsupported LRC refuses (R96). -/

namespace Sys2Proof.Checksums

open Sys2Proof.Machine

/-! ### The CRC's residue -/

/-- A byte in the high half comes down to the low half in eight steps. -/
theorem crcBits_high_byte (b : Byte) : crcBits 8 (b.setWidth 16 <<< 8) = b.setWidth 16 := by
  rw [crcBits_shift _ _ fun i hi => by simp [hi]]
  apply BitVec.eq_of_toNat_eq
  simp
  omega

theorem low_byte_xor_high_byte (c : Word16) :
    (c.extractLsb' 0 8).setWidth 16 ^^^ (c.extractLsb' 8 8).setWidth 16 <<< 8 = c := by
  apply BitVec.eq_of_getLsbD_eq
  intro i hi
  rcases Nat.lt_or_ge i 8 with hlow | hhigh
  · simp [hlow, hi]
  · simp [hi, Nat.not_lt.2 hhigh, Nat.add_sub_cancel' hhigh, show i - 8 < 8 by omega]

/-- The accumulator meets two bytes, low byte first, as it would meet the word they make (R91). -/
theorem crcFrom_two_bytes (a : Word16) (low high : Byte) :
    crcFrom a [low, high] = crcBits 16 (a ^^^ (low.setWidth 16 ^^^ high.setWidth 16 <<< 8)) :=
  calc crcFrom a [low, high]
      = crcBits 8 (crcBits 8 (a ^^^ low.setWidth 16) ^^^ high.setWidth 16) := rfl
    _ = crcBits 8 (crcBits 8 (a ^^^ low.setWidth 16) ^^^ crcBits 8 (high.setWidth 16 <<< 8)) := by
        rw [crcBits_high_byte]
    _ = crcBits 8 (crcBits 8 (a ^^^ (low.setWidth 16 ^^^ high.setWidth 16 <<< 8))) := by
        rw [← crcBits_xor, BitVec.xor_assoc]

theorem crcFrom_epilogue (a c : Word16) : crcFrom a (epilogue .crc c) = crcBits 16 (a ^^^ c) := by
  rw [epilogue, crcFrom_two_bytes, low_byte_xor_high_byte]

/-- Settles O7: the message's CRC turns the accumulator into the final XOR's value, whatever the message was. -/
theorem crcResidueIsConstant : Obligations.CrcResidueIsConstant := by
  intro m
  have hresidue : crcAccOf (m ++ epilogue .crc (crc16 m)) = 0xF0B8#16 := by
    calc crcAccOf (m ++ epilogue .crc (crc16 m))
        = crcFrom (crcAccOf m) (epilogue .crc (crc16 m)) := crcFrom_append ..
      _ = crcBits 16 (crcAccOf m ^^^ (crcAccOf m ^^^ Config.crcParams.xorOut)) := crcFrom_epilogue ..
      _ = crcBits 16 Config.crcParams.xorOut := by rw [← BitVec.xor_assoc, BitVec.xor_self, BitVec.zero_xor]
      _ = 0xF0B8#16 := by decide +kernel
  exact ⟨hresidue, by rw [crc16, hresidue]; decide⟩

/-! ### Changed bytes -/

/-- From one accumulator, different bytes lead to different accumulators. -/
theorem crcByte_inj {a : Word16} {b b' : Byte} (h : crcByte a b = crcByte a b') : b = b' := by
  have hwide : b.setWidth 16 = b'.setWidth 16 := (BitVec.xor_right_inj a).1 (crcBits_inj 8 h)
  simpa using congrArg (BitVec.setWidth 8) hwide

theorem crc16_inj {bs bs' : List Byte} (h : crc16 bs = crc16 bs') : crcAccOf bs = crcAccOf bs' :=
  (BitVec.xor_left_inj _).1 h

/-- Settles O8: equal CRCs are traced back through the final XOR, the bytes behind the change and the byte itself. -/
theorem crcDetectsOneChangedByte : Obligations.CrcDetectsOneChangedByte := by
  intro pre post b b' hne heq
  have hacc : crcFrom (crcAccOf pre) (b :: post) = crcFrom (crcAccOf pre) (b' :: post) := by
    simpa only [crcAccOf, crcFrom_append] using crc16_inj heq
  have hbyte : crcByte (crcAccOf pre) b = crcByte (crcAccOf pre) b' := crcFrom_inj post hacc
  exact hne (crcByte_inj hbyte)

/-! ### The LRC -/

theorem lrc_append_singleton (bs : List Byte) (b : Byte) : lrc (bs ++ [b]) = lrc bs ^^^ b := by
  simp [lrc]

theorem lrc_singleton (b : Byte) : lrc [b] = b := BitVec.zero_xor

theorem lrc_perm {bs bs' : List Byte} (h : bs.Perm bs') : lrc bs = lrc bs' :=
  h.foldl_eq _

/-- Settles O9: the seed is 0x00, and XOR cancels and commutes (R94). -/
theorem lrcIsOrderFreeXor : Obligations.LrcIsOrderFreeXor :=
  ⟨fun bs => (lrc_append_singleton bs _).trans BitVec.xor_self, lrc_singleton, fun _ _ => lrc_perm⟩

/-! ### Worked values -/

/-- Settles O6 by running the engines; for the empty message the final XOR cancels the initial value. -/
theorem crcWorkedValues : Obligations.CrcWorkedValues := by
  have hempty : crc16 [] = 0x0000#16 := BitVec.xor_self
  refine ⟨?_, hempty, ?_, ?_, ?_, ?_, ?_, rfl, rfl⟩ <;> decide +kernel

/-! ### LRC_SUPPORTED -/

theorem initOp_of_usable {lrcSupported : Bool} {load : Option Atp} {a : Atp} {s : State} (hb : s.busy = false)
    (h : usableAtp lrcSupported load = some a) : initOp lrcSupported load s = .next (s.initWith a) := by
  simp [initOp, acceptInit, hb, h]

theorem initOp_of_unusable {lrcSupported : Bool} {load : Option Atp} {s : State} (hb : s.busy = false)
    (h : usableAtp lrcSupported load = none) : initOp lrcSupported load s = .next s.initFailed := by
  simp [initOp, acceptInit, hb, h]

/-- Without LRC support a record that declares LRC is as good as none (R96). -/
theorem usableAtp_lrc {a : Atp} (h : a.checksum = .lrc) : usableAtp false (some a) = none := by
  simp [usableAtp, h]

theorem usableAtp_crc {a : Atp} (lrcSupported : Bool) (h : a.checksum = .crc) :
    usableAtp lrcSupported (some a) = some a := by
  simp [usableAtp, h]

/-- Without LRC support the port refuses a transfer of an engine that is ready for it (R96, R120). -/
theorem acceptXfer_lrc {s : State} (hb : s.busy = false) (hph : s.phase = .idle) (h : s.atp.checksum = .lrc) :
    acceptXfer false s = some .lrcUnsupported := by
  simp [acceptXfer, hb, hph, h]

/-- Settles O25: INIT by the record's checksum kind, the transfers by their acceptance. -/
theorem lrcNotSupportedFailsCleanly : Obligations.LrcNotSupportedFailsCleanly := by
  refine ⟨fun a s hlrc hb => ?init_lrc, fun a s hcrc hb => ?init_crc, fun cmd isLast s hb hph hlrc => ?transfers⟩
  case init_lrc => exact ⟨_, initOp_of_unusable hb (usableAtp_lrc hlrc), rfl, rfl, rfl⟩
  case init_crc => exact ⟨_, initOp_of_usable hb (usableAtp_crc _ hcrc), rfl, rfl⟩
  case transfers =>
    have hrefused := acceptXfer_lrc hb hph hlrc
    exact ⟨by rw [xferPartOp, hrefused], by rw [xferApduOp, hrefused]⟩

end Sys2Proof.Checksums
end

section
/-! PROOFS. The framer (41_framer.md): when FORM_TPDU refuses and what it builds (R101), and the round trip through
TO_BYTES, the copy into RXBUF, PARSE and CHECKSUM_OK (R105). -/

namespace Sys2Proof.FrameRoundTrip

open Sys2Proof.Machine Sys2Proof.FrameLayout Sys2Proof.BlockEncoding

/-! ### FORM_TPDU -/

theorem formTpdu_refused {nad pcb len : Byte} {data : List Byte} (s : State)
    (h : len = 255#8 ∨ data.length ≠ len.toNat) : formTpdu nad pcb len data s = .error .formTpdu :=
  if_pos h

/-- Settles O12: the only LEN above 254 is 255, and a sum writes the accumulators alone. -/
theorem formTpduBuildsOrRefuses : Obligations.FormTpduBuildsOrRefuses := by
  intro nad pcb len data s
  refine ⟨fun hbad => formTpdu_refused s (hbad.imp_left fun hlong => ?len_eq), fun hle hdata => ?built⟩
  case len_eq =>
    by_contra h255
    exact absurd (len_le_of_ne h255) (Nat.not_le.2 hlong)
  case built =>
    have h255 : len ≠ 255#8 := by
      rintro rfl
      exact absurd hle (by decide)
    refine ⟨_, formTpdu_ok s h255 hdata, ?_⟩
    rw [State.sum_eq]

theorem sealTpdu_wf (k : ChecksumKind) (nad pcb : Byte) {len : Byte} {data : List Byte} (h255 : len ≠ 255#8)
    (hdata : data.length = len.toNat) : (sealTpdu k nad pcb len data).wf = true :=
  (Tpdu.wf_iff _).2 ⟨h255, hdata⟩

/-! ### The round trip -/

section
variable {k : ChecksumKind} {t : Tpdu} {buf m : Memory} {n : Nat}

/-- The buffer's LEN is the block's, which is legal (R100). -/
theorem read_len_of_toBytes (hw : buf.wf = true) (ht : t.wf = true) (h : toBytes k t buf = .ok (m, n)) :
    m.read 2 ≠ 255#8 := by
  obtain ⟨h255, -⟩ := (Tpdu.wf_iff t).1 ht
  rwa [BitVec.eq_of_toNat_eq (toBytes_frameLen hw ht h)]

/-- PARSE of a serialized block gives its fields, and the checksum that TO_BYTES computed from them, whatever the
block's own checksum field holds (R100, R104). -/
theorem parse_of_toBytes (hw : buf.wf = true) (ht : t.wf = true) (h : toBytes k t buf = .ok (m, n)) :
    parse k m = sealTpdu k t.nad t.pcb t.len t.data := by
  obtain ⟨hbody, hepi⟩ := toBytes_layout hw ht h
  have hfields := bytes_eq_parse k (read_len_of_toBytes hw ht h)
  rw [toBytes_frameLen hw ht h, hbody] at hfields
  simp only [List.cons.injEq] at hfields
  obtain ⟨hnad, hpcb, hlen, hdata⟩ := hfields
  have hsum : (parse k m).checksum = checksum k (t.nad :: t.pcb :: t.len :: t.data) := by
    rw [← epilogueValue_epilogue, ← hepi, ← toBytes_frameLen hw ht h]
    rfl
  rw [sealTpdu, ← hsum, hnad, hpcb, hlen, hdata]

/-- CHECKSUM_OK on a serialized block is true (R100, R102). -/
theorem checksumOk_of_toBytes (hw : buf.wf = true) (ht : t.wf = true) (h : toBytes k t buf = .ok (m, n)) :
    checksumOk k m = true := by
  obtain ⟨hbody, hepi⟩ := toBytes_layout hw ht h
  rw [checksumOk_iff (read_len_of_toBytes hw ht h), toBytes_frameLen hw ht h, hbody, hepi]

/-- The frame copied from one buffer into another is the block serialized there. -/
theorem toBytes_of_copy {rx : Memory} (hw : buf.wf = true) (hrx : rx.wf = true) (ht : t.wf = true)
    (h : toBytes k t buf = .ok (m, n)) : toBytes k t rx = .ok (rx.writeList 0 (m.bytes 0 n), n) := by
  rw [toBytes_eq k hw ht] at h
  cases h
  rw [image_bytes k hw ht, toBytes_eq k hrx ht]

end

/-- Settles O13: the copy is the block serialized into RXBUF, which PARSE and CHECKSUM_OK read back. -/
theorem frameRoundTrip : Obligations.FrameRoundTrip := by
  rintro k nad pcb len data s s' t tx rx rfl htx hrx hform
  obtain ⟨h255, hdata, rfl, -⟩ := formTpdu_eq_ok hform
  have ht := sealTpdu_wf s.atp.checksum nad pcb h255 hdata
  have hsent := toBytes_eq s.atp.checksum htx ht
  have hcopied := toBytes_of_copy htx hrx ht hsent
  exact ⟨rfl, rfl, rfl, rfl, _, _, hsent, parse_of_toBytes hrx ht hcopied, checksumOk_of_toBytes hrx ht hcopied⟩

end Sys2Proof.FrameRoundTrip
end

section
/-! PROOFS. The exchange's three phases (42_block_comm.md): SEND hands over one frame (R110), WAIT keys on the NAD
(R111), and READ is one store of the block's bytes behind the NAD, however its reads are cut (R112, R113). -/

namespace Sys2Proof.BlockExchange

open Sys2Proof.Machine Sys2Proof.Safety

/-! ### SEND (R110) -/

/-- WRITE_TPDU writes TXBUF and one accumulator. -/
theorem framed_eq (s : State) (buf : Memory) :
    s.framed buf = { s with txBuf := buf, crcAcc := (s.framed buf).crcAcc, lrcAcc := (s.framed buf).lrcAcc } := by
  rw [State.framed, State.sum_eq]

/-- A store of the frame leaves every byte of TXBUF beyond it alone. -/
theorem read_image_of_le (k : ChecksumKind) {b : Tpdu} {buf : Memory} (hw : buf.wf = true) (hb : b.wf = true) {a : Nat}
    (ha : 3 + b.len.toNat + epilogueLen k ≤ a) :
    (buf.writeList 0 (image k b.nad b.pcb b.data)).read a = buf.read a := by
  obtain ⟨-, hd⟩ := (Tpdu.wf_iff b).1 hb
  rw [Memory.read_writeList hw (image_fits k hb), image_length, if_neg (by omega)]

/-- Settles O32: the frame is one store in TXBUF, and the link's answer says whether WAIT or ERR(Io) follows. -/
theorem sendHandsOverOneFrame : Obligations.SendHandsOverOneFrame := by
  intro s hp hph hb ht
  have hframe := image_bytes s.atp.checksum hb ht
  have hbeyond := fun a => read_image_of_le (a := a) s.atp.checksum hb ht
  rw [step_send hp hph, sendPhase_eq hb ht]
  refine ⟨fun hw => by rw [hw], fun w rest hw => ?_⟩
  rw [hw]
  cases w with
  | ok =>
    refine ⟨_, rfl, ?_, ?_, fun _ => ?_, nofun⟩
    · simpa using hbeyond
    · simpa using hframe
    · rw [framed_eq]
  | ioErr =>
    refine ⟨_, rfl, ?_, ?_, nofun, fun _ => ?_⟩
    · simpa using hbeyond
    · simpa using hframe
    · rw [raise_eq, framed_eq]

/-! ### WAIT (R111) -/

section
variable {s : State} {rest : List ReadDraw}

theorem waitPhase_of_present (h : pollLink s.linkRd = .present rest) :
    waitPhase s = .next { s with
      linkRd := rest
      nbwt := 1#8
      rxBuf := s.rxBuf.write 0 0x12#8
      lastRx := { s.lastRx with nad := 0x12#8 }
      phase := .read } := by
  unfold waitPhase
  rw [h]
  rfl

theorem waitPhase_of_timeout (h : pollLink s.linkRd = .timeout rest) :
    waitPhase s = .next { s with linkRd := rest, nbwt := 1#8, rxLen := 0#9, phase := .eval } := by
  unfold waitPhase
  rw [h]

theorem waitPhase_of_err (h : pollLink s.linkRd = .err rest) :
    waitPhase s = .next ({ s with linkRd := rest, nbwt := 1#8 }.raise .io) := by
  unfold waitPhase
  rw [h]

theorem waitPhase_of_pending (h : pollLink s.linkRd = .pending) : waitPhase s = .next { s with linkRd := [] } := by
  unfold waitPhase
  rw [h]

end

/-- Settles O33: polling discards the noise, so that WAIT sees only the draw behind it. -/
theorem waitKeysOnTheNad : Obligations.WaitKeysOnTheNad := by
  refine ⟨fun noise d rest s hp hph hw hnoise hl => ?ended, fun noise s hp hph hnoise hl => ?blocked⟩
  case blocked =>
    rw [step_wait hp hph]
    exact waitPhase_of_pending (by rw [hl, pollLink_pending hnoise])
  case ended =>
    have hpoll : pollLink s.linkRd = pollLink (d :: rest) := by rw [hl, pollLink_noise hnoise]
    rw [step_wait hp hph]
    refine ⟨?nad, ?expired, ?ioErr⟩
    case nad =>
      rintro rfl
      exact ⟨_, waitPhase_of_present hpoll, fun a => Memory.read_write hw 0 a _, rfl⟩
    case expired =>
      rintro rfl
      exact waitPhase_of_timeout hpoll
    case ioErr =>
      rintro rfl
      exact ⟨_, waitPhase_of_err hpoll, raise_eq _ _⟩

/-! ### The bytes that READ stores (R112, R113) -/

/-- READ's store of the prologue succeeds. -/
theorem memWrite_prologue (m : Memory) (pcb len : Byte) :
    memWrite m 1 [pcb, len] = .ok (m.writeList 1 [pcb, len]) :=
  memWrite_in_range (by simp [tpduMax])

/-- The data behind the prologue: together one store at offset 1. -/
theorem memWrite_data (m : Memory) (pcb len : Byte) {data : List Byte} (h : data.length ≤ 254) :
    memWrite (m.writeList 1 [pcb, len]) 3 data = .ok (m.writeList 1 (pcb :: len :: data)) := by
  rw [memWrite_in_range (by simp only [tpduMax]; omega)]
  exact congrArg _ (Memory.writeList_append m 1 [pcb, len] data)

/-- The epilogue behind the data: together one store at offset 1. -/
theorem memWrite_epilogue (m : Memory) (pcb len : Byte) {data epi : List Byte} (hd : data.length ≤ 254)
    (he : epi.length ≤ 2) :
    memWrite (m.writeList 1 (pcb :: len :: data)) (3 + data.length) epi =
      .ok (m.writeList 1 (pcb :: len :: (data ++ epi))) := by
  have hoff : 3 + data.length = 1 + (pcb :: len :: data).length := by simp only [List.length_cons]; omega
  rw [memWrite_in_range (by simp only [tpduMax]; omega), hoff, Memory.writeList_append]
  rfl

theorem length_take_lenMax (data : List Byte) : (data.take lenMax).length ≤ 254 := List.length_take_le ..

/-! ### READ after the prologue -/

section
variable {pcb len : Byte} {draws rest : List ReadDraw} {data epi : List Byte} {s : State}

theorem readRest_of_pending (h : readBody len.toNat (epilogueLen s.atp.checksum) draws = .pending) :
    readRest pcb len draws s = .next s := by
  simp only [readRest, memWrite_prologue, h]

theorem readRest_of_errInData (h : readBody len.toNat (epilogueLen s.atp.checksum) draws = .errInData rest) :
    readRest pcb len draws s = .next (s.readFailed (s.rxBuf.writeList 1 [pcb, len]) rest) := by
  simp only [readRest, memWrite_prologue, h]

theorem readRest_of_errInEpilogue
    (h : readBody len.toNat (epilogueLen s.atp.checksum) draws = .errInEpilogue data rest) :
    readRest pcb len draws s =
      .next (s.readFailed (s.rxBuf.writeList 1 (pcb :: len :: data.take lenMax)) rest) := by
  simp only [readRest, memWrite_prologue, h, memWrite_data _ _ _ (length_take_lenMax data)]

/-- LEN = 255: the last data byte and the epilogue are not stored (R113). -/
theorem readRest_of_got_long
    (h : readBody (255#8 : Byte).toNat (epilogueLen s.atp.checksum) draws = .got data epi rest) :
    readRest pcb 255#8 draws s =
      .next (s.receivedLong (s.rxBuf.writeList 1 (pcb :: 255#8 :: data.take lenMax)) rest) := by
  simp only [readRest, memWrite_prologue, h, memWrite_data _ _ _ (length_take_lenMax data), if_true]

/-- A legal LEN: the whole block is stored behind the NAD (R112). -/
theorem readRest_of_got (hlen : len ≠ 255#8)
    (h : readBody len.toNat (epilogueLen s.atp.checksum) draws = .got data epi rest) :
    readRest pcb len draws s = .next (s.received (s.rxBuf.writeList 1 (pcb :: len :: (data ++ epi))) rest) := by
  have hl := len_le_of_ne hlen
  obtain ⟨-, hE⟩ := epilogueLen_le s.atp.checksum
  obtain ⟨hd, he⟩ := readBody_got h
  have htake : data.take lenMax = data := List.take_of_length_le (hd.trans_le hl)
  have hepi := memWrite_epilogue s.rxBuf pcb len (data := data) (epi := epi) (by omega) (by omega)
  rw [hd] at hepi
  simp only [readRest, memWrite_prologue, h, htake, memWrite_data _ _ _ (hd.trans_le hl), if_neg hlen, hepi]

end

/-! ### READ from its start -/

/-- Once PCB and LEN are there, READ goes on to the rest of the block. -/
theorem readPhase_of_prologue {s : State} {p q : Nat × Byte} {g : List (Nat × Byte)} {draws : List ReadDraw}
    (h : s.linkRd = withGaps (p :: q :: g) ++ draws) : readPhase s = readRest p.2 q.2 (withGaps g ++ draws) s := by
  have hread : readLink 2 s.linkRd = .got [p.2, q.2] (withGaps g ++ draws) := by
    rw [h, show p :: q :: g = [p, q] ++ g from rfl, withGaps_append, List.append_assoc]
    exact readLink_gaps [p, q] _
  unfold readPhase
  rw [hread]

/-- The bytes of a prologue and what follows, each with its window's ends. -/
theorem gaps_of_prologue {gapped : List (Nat × Byte)} {pcb len : Byte} {tail : List Byte}
    (h : gapped.map Prod.snd = pcb :: len :: tail) :
    ∃ p q g, gapped = p :: q :: g ∧ p.2 = pcb ∧ q.2 = len ∧ g.map Prod.snd = tail := by
  obtain ⟨p, _, rfl, hp, h⟩ := List.map_eq_cons_iff.1 h
  obtain ⟨q, g, rfl, hq, hg⟩ := List.map_eq_cons_iff.1 h
  exact ⟨p, q, g, rfl, hp, hq, hg⟩

/-- The bytes of a whole block, each with its window's ends, are its prologue, its data and its epilogue. -/
theorem gaps_of_block {gapped : List (Nat × Byte)} {pcb len : Byte} {data epi : List Byte}
    (h : gapped.map Prod.snd = pcb :: len :: (data ++ epi)) :
    ∃ p q gd ge, gapped = p :: q :: (gd ++ ge) ∧ p.2 = pcb ∧ q.2 = len ∧ gd.map Prod.snd = data ∧
      ge.map Prod.snd = epi := by
  obtain ⟨p, q, _, rfl, hp, hq, hbody⟩ := gaps_of_prologue h
  obtain ⟨gd, ge, rfl, hd, he⟩ := List.map_eq_append_iff.1 hbody
  exact ⟨p, q, gd, ge, rfl, hp, hq, hd, he⟩

/-- A block whose bytes are all there: its PCB and LEN are taken, and the reads of its body are answered. -/
theorem readPhase_of_block {s : State} {gapped : List (Nat × Byte)} {pcb len : Byte} {data epi : List Byte}
    {rest : List ReadDraw} (hdata : data.length = len.toNat) (hepi : epi.length = epilogueLen s.atp.checksum)
    (h : gapped.map Prod.snd = pcb :: len :: (data ++ epi)) (hl : s.linkRd = withGaps gapped ++ rest) :
    ∃ draws, readPhase s = readRest pcb len draws s ∧
      readBody len.toNat (epilogueLen s.atp.checksum) draws = .got data epi rest := by
  obtain ⟨p, q, gd, ge, rfl, rfl, rfl, rfl, rfl⟩ := gaps_of_block h
  refine ⟨_, readPhase_of_prologue hl, ?_⟩
  rw [← hdata, ← hepi, List.length_map, List.length_map]
  exact readBody_gaps gd ge rest

/-- What a block that is not yet whole lacks: a byte of its prologue, or one of its body. -/
theorem gaps_of_blockShort {epiLen : Nat} {gapped : List (Nat × Byte)}
    (h : blockShort epiLen (gapped.map Prod.snd)) :
    gapped.length < 2 ∨ ∃ p q g, gapped = p :: q :: g ∧ g.length < q.2.toNat + epiLen := by
  rcases h with hshort | ⟨pcb, len, tail, hmap, hshort⟩
  · exact .inl (by simpa using hshort)
  · obtain ⟨p, q, g, rfl, -, rfl, rfl⟩ := gaps_of_prologue hmap
    exact .inr ⟨p, q, g, rfl, by simpa using hshort⟩

/-- Until the whole block is there READ blocks (R112). -/
theorem readPhase_of_blockShort {s : State} {gapped : List (Nat × Byte)} {n : Nat}
    (h : blockShort (epilogueLen s.atp.checksum) (gapped.map Prod.snd))
    (hl : s.linkRd = withGaps gapped ++ List.replicate n .expired) : readPhase s = .next s := by
  rcases gaps_of_blockShort h with hshort | ⟨p, q, g, rfl, hshort⟩
  · unfold readPhase
    rw [hl, readLink_pending hshort]
  · rw [readPhase_of_prologue hl]
    exact readRest_of_pending (readBody_pending hshort n)

/-- A link error before the whole block is there ends READ; what it has stored lies behind the NAD (R165). -/
theorem readPhase_of_ioErr {s : State} {gapped : List (Nat × Byte)} {n : Nat} {rest : List ReadDraw}
    (hw : s.rxBuf.wf = true) (h : blockShort (epilogueLen s.atp.checksum) (gapped.map Prod.snd))
    (hl : s.linkRd = withGaps gapped ++ List.replicate n .expired ++ .ioErr :: rest) :
    ∃ buf, readPhase s = .next (s.readFailed buf rest) ∧ buf.read 0 = s.rxBuf.read 0 := by
  rcases gaps_of_blockShort h with hshort | ⟨p, q, g, rfl, hshort⟩
  · refine ⟨s.rxBuf, ?_, rfl⟩
    unfold readPhase
    rw [hl, readLink_err hshort]
  · have hbody := readBody_err hshort n rest
    rw [List.append_assoc] at hl
    rw [readPhase_of_prologue hl, ← List.append_assoc]
    split_ifs at hbody
    · exact ⟨_, readRest_of_errInData hbody, Memory.read_writeList_of_lt hw (by simp [tpduMax]) Nat.zero_lt_one⟩
    · have hfit := length_take_lenMax ((g.take q.2.toNat).map Prod.snd)
      exact ⟨_, readRest_of_errInEpilogue hbody,
        Memory.read_writeList_of_lt hw (by simp only [List.length_cons, tpduMax]; omega) Nat.zero_lt_one⟩

/-! ### The received block -/

/-- PARSE of a block stored behind the NAD gives its fields (R104). -/
theorem parse_stored {k : ChecksumKind} {m : Memory} {pcb len : Byte} {data epi : List Byte} (hw : m.wf = true)
    (hlen : len ≠ 255#8) (hdata : data.length = len.toNat) (hepi : epi.length = epilogueLen k) :
    parse k (m.writeList 1 (pcb :: len :: (data ++ epi))) =
      { nad := m.read 0, pcb := pcb, len := len, data := data, checksum := epilogueValue epi } := by
  have hl := len_le_of_ne hlen
  obtain ⟨-, hE⟩ := epilogueLen_le k
  have hfit : 1 + (pcb :: len :: (data ++ epi)).length ≤ tpduMax := by
    simp only [List.length_cons, List.length_append, tpduMax]
    omega
  have hnad := Memory.read_writeList_of_lt hw hfit Nat.zero_lt_one
  have hbytes := Memory.bytes_writeList_self hw hfit
  generalize m.writeList 1 (pcb :: len :: (data ++ epi)) = buf at hnad hbytes
  simp only [List.length_cons, List.length_append, Memory.bytes, List.cons.injEq] at hbytes
  obtain ⟨hpcb, hlen', hbody⟩ := hbytes
  rw [Memory.bytes_add] at hbody
  obtain ⟨hdata', hepi'⟩ := List.append_inj hbody (Memory.bytes_length ..)
  rw [parse, frameLen, hlen', ← hdata, ← hepi, min_eq_left (b := lenMax) (hdata.trans_le hl), hnad, hpcb, hdata', hepi']

/-- Settles O34: the block is one store behind the NAD, which PARSE reads back. -/
theorem readTakesTheRestOfTheBlock : Obligations.ReadTakesTheRestOfTheBlock := by
  refine ⟨fun pcb len data epi gapped rest s hp hph hw hlen hdata hepi hmap hl => ?whole,
    fun gapped n s hp hph hshort hl => ?short⟩
  case short =>
    rw [step_read hp hph]
    exact readPhase_of_blockShort hshort hl
  case whole =>
    obtain ⟨draws, hread, hbody⟩ := readPhase_of_block hdata hepi hmap hl
    have hsize : 1 + (pcb :: len :: (data ++ epi)).length = 3 + len.toNat + epi.length := by
      simp only [List.length_cons, List.length_append]
      omega
    have hfit : 1 + (pcb :: len :: (data ++ epi)).length ≤ tpduMax := by
      have hle := len_le_of_ne hlen
      obtain ⟨-, hE⟩ := epilogueLen_le s.atp.checksum
      rw [hsize]
      simp only [tpduMax]
      omega
    have hparse := parse_stored (pcb := pcb) hw hlen hdata hepi
    have hframe : frameLen (s.rxBuf.writeList 1 (pcb :: len :: (data ++ epi))) = len.toNat :=
      congrArg (fun b : Tpdu => b.len.toNat) hparse
    rw [step_read hp hph, hread]
    refine ⟨_, readRest_of_got hlen hbody, fun a => ?bytes, ?state⟩
    case bytes => rw [State.received_rxBuf, Memory.read_writeList hw hfit, hsize]
    case state => rw [State.received, hparse, hframe, hepi]

/-- The stored part of an overlong block, byte for byte. -/
theorem read_stored_long {m : Memory} {data : List Byte} (pcb : Byte) (hw : m.wf = true) (hdata : data.length = 255)
    (a : Nat) :
    (m.writeList 1 (pcb :: 255#8 :: data.take lenMax)).read a =
      if 1 ≤ a ∧ a < 257 then (pcb :: 255#8 :: data).getD (a - 1) 0#8 else m.read a := by
  have hstored : pcb :: 255#8 :: data.take lenMax = (pcb :: 255#8 :: data).take 256 := rfl
  have hsize : ((pcb :: 255#8 :: data).take 256).length = 256 := by simp [hdata]
  rw [hstored, Memory.read_writeList hw (by rw [hsize]; decide), hsize]
  split_ifs with ha
  · rw [List.getD_eq_getElem?_getD, List.getElem?_take_of_lt (by omega), ← List.getD_eq_getElem?_getD]
  · rfl

/-- Settles O35: the block with LEN = 255 is stored to 254 data bytes, and its LEN alone fails check 3. -/
theorem overlongBlockIsConsumedAndFails : Obligations.OverlongBlockIsConsumedAndFails := by
  intro pcb data epi gapped rest s hp hph hw hdata hepi hmap hl
  obtain ⟨draws, hread, hbody⟩ := readPhase_of_block (len := 255#8) hdata hepi hmap hl
  have hbytes := read_stored_long pcb hw hdata
  rw [step_read hp hph, hread]
  exact ⟨_, readRest_of_got_long hbody, fun hc => BlockEncoding.len_ne_of_consistent hc rfl, hbytes 1, rfl, hbytes, rfl⟩

/-- Settles O36: whichever read meets the error, READ has written nothing but RXBUF behind the NAD. -/
theorem linkErrorInsideBlockEndsOperation : Obligations.LinkErrorInsideBlockEndsOperation := by
  intro gapped n rest s hp hph hw hshort hl
  obtain ⟨buf, hread, hnad⟩ := readPhase_of_ioErr hw hshort hl
  rw [step_read hp hph]
  refine ⟨_, hread, ?_, ?_⟩
  · rw [State.readFailed_rxBuf, hnad]
  · rw [State.readFailed, raise_eq]

end Sys2Proof.BlockExchange
end

section
/-! PROOFS. The host operations (43_t1_host_ops.md): what the command port refuses (R120), the first exchange of a
transfer (R122, R127), the wrapper between two parts of an XFER_APDU (R127), and the step as `exec` of what decodes. -/

namespace Sys2Proof.HostOperations

open Sys2Proof.Machine Sys2Proof.Safety

/-! ### Acceptance on the command port (R120) -/

theorem acceptXfer_busy {s : State} (lrcSupported : Bool) (h : s.busy = true) :
    acceptXfer lrcSupported s = some .busy := by
  simp [acceptXfer, h]

theorem acceptXfer_uninit {s : State} (lrcSupported : Bool) (hph : s.phase = .uninit) (ha : s.apdu = none) :
    acceptXfer lrcSupported s = some .beforeInit := by
  have hb : s.busy = false := by simp [State.busy, hph, ha]
  simp [acceptXfer, hb, hph]

/-- A transfer that is not accepted is refused, whichever it is. -/
theorem exec_xfer_of_refused {s : State} {r : Refusal} (cmd : List Byte) (isLast : Bool)
    (h : acceptXfer Config.lrcSupported s = some r) :
    exec (.xferPart cmd isLast) s = .refused r ∧ exec (.xferApdu cmd) s = .refused r := by
  simp [exec, execXferPart, xferPartOp, execXferApdu, xferApduOp, h]

/-- While an operation runs, INIT is refused like the transfers. -/
theorem exec_init_of_busy {s : State} (load : Option Atp) (h : s.busy = true) :
    exec (.init load) s = .refused .busy := by
  simp [exec, execInit, initOp, acceptInit, h]

section
variable {s : State} (hph : s.phase = .idle) (ha : s.apdu = none)
include hph ha

/-- An accepted XFER_PART is its part. -/
theorem exec_xferPart_of_idle (cmd : List Byte) (isLast : Bool) :
    exec (.xferPart cmd isLast) s = startPart cmd isLast { s with outcome := none } := by
  have haccept : acceptXfer Config.lrcSupported s = none := acceptXfer_idle hph ha
  simp only [exec, execXferPart, xferPartOp, haccept]

theorem exec_xferApdu_nil : exec (.xferApdu []) s = .refused .emptyCmd := by
  have haccept : acceptXfer Config.lrcSupported s = none := acceptXfer_idle hph ha
  simp only [exec, execXferApdu, xferApduOp, haccept, if_true]

/-- An accepted XFER_APDU is the first turn of the command-side loop. -/
theorem exec_xferApdu_of_idle {cmd : List Byte} (hcmd : cmd ≠ []) :
    exec (.xferApdu cmd) s =
      sendFragment { cmd := cmd, off := 0, chunk := 0, out := [], side := .command, part := none }
        { s with outcome := none } := by
  have haccept : acceptXfer Config.lrcSupported s = none := acceptXfer_idle hph ha
  simp only [exec, execXferApdu, xferApduOp, haccept, hcmd, if_false]

end

/-! ### The beginning of a part -/

theorem startPart_too_long {cmd : List Byte} {s : State} (isLast : Bool) (h : fragLimit s.atp.ifsc < cmd.length) :
    startPart cmd isLast s = .refused .cmdTooLong :=
  if_pos h

theorem sendFragment_of_ifsc_zero (x : ApduRun) {s : State} (h : s.atp.ifsc = 0#8) :
    sendFragment x s = .refused .zeroChunk :=
  if_pos (fragLimit_eq_zero.2 h)

/-- The PCB of a fragment: M says that another one follows (R72). -/
theorem pcbForI_not_decide (ns : Seq) (chained : Prop) [Decidable chained] :
    pcbForI ns (!decide chained) = (ns.setWidth 8 <<< 6) ||| (if chained then 0x20#8 else 0x00#8) := by
  by_cases h : chained <;> simp [pcbForI, h]

/-! ### The transfers -/

/-- Settles O26: the part is accepted, and its bytes fit one fragment. -/
theorem xferPartSendsIBlock : Obligations.XferPartSendsIBlock := by
  intro cmd isLast s hph ha hcmd hl
  exact ⟨_, (exec_xferPart_of_idle hph ha cmd isLast).trans (startPart_cmd hcmd hl), rfl⟩

/-- Settles O27: the part is accepted, and without a byte it is the solicitation. -/
theorem emptyXferPartSolicits : Obligations.EmptyXferPartSolicits := by
  intro isLast s hph ha
  exact ⟨_, (exec_xferPart_of_idle hph ha [] isLast).trans startPart_nil, rfl⟩

/-- Settles O28: the first turn of the command-side loop, at offset 0 and so with the whole command left. -/
theorem xferApduSendsFirstFragment : Obligations.XferApduSendsFirstFragment := by
  intro cmd s hph ha hcmd hifsc
  have hsend := sendFragment_eq { cmd := cmd, off := 0, chunk := 0, out := [], side := .command, part := none }
    (s := { s with outcome := none }) hifsc hcmd
  simp only [pcbForI_not_decide] at hsend
  exact ⟨_, (exec_xferApdu_of_idle hph ha hcmd).trans hsend, rfl⟩

/-! ### The wrapper between two parts (R127) -/

section
variable {x : ApduRun} (s : State)

theorem resumeApdu_err (k : ErrKind) : resumeApdu x (.err k) s = .next (s.apduErr k) := by
  simp only [resumeApdu]

theorem resumeApdu_command_ack (h : x.side = .command) :
    resumeApdu x .ack s = sendFragment { x with off := x.off + x.chunk } s := by
  simp only [resumeApdu, h]

theorem resumeApdu_command_resp (h : x.side = .command) {o : OpOutcome} {d : List Byte}
    (ho : o = .respFinal d ∨ o = .respMore d) : resumeApdu x o s = .next (s.apduErr .consistency) := by
  rcases ho with rfl | rfl <;> simp only [resumeApdu, h]

theorem resumeApdu_response_ack (h : x.side = .response) :
    resumeApdu x .ack s = .next (s.apduErr .consistency) := by
  simp only [resumeApdu, h]

theorem resumeApdu_response_more (h : x.side = .response) (d : List Byte) :
    resumeApdu x (.respMore d) s =
      startPart [] true { s with apdu := some { x with out := x.out ++ d, part := none } } := by
  simp only [resumeApdu, h]

theorem resumeApdu_response_final (h : x.side = .response) (d : List Byte) :
    resumeApdu x (.respFinal d) s =
      .next { s with apdu := none, resp := x.out ++ d, outcome := some (.respFinal (x.out ++ d)) } := by
  simp only [resumeApdu, h, State.storeResp_unbounded]

end

/-- Settles O29: the step is the wrapper's, by the side it is on and the outcome of the part that has ended. -/
theorem apduWrapperRunsItsParts : Obligations.ApduWrapperRunsItsParts := by
  intro x s hp hph hx
  have hstep {o : OpOutcome} (ho : x.part = some o) : step s = resumeApdu x o s := by
    rw [step_idle hp hph, idlePhase_part hx ho]
  refine ⟨fun k ho => ?error, fun hside ho hifsc => ?fragment, fun hside ho hifsc => ?zeroChunk,
    fun hside d ho => ?commandAnswered, fun hside ho => ?responseAcked, fun hside d ho => ?more,
    fun hside d ho => ?final⟩
  case error => exact ⟨_, (hstep ho).trans (resumeApdu_err s k), rfl, rfl⟩
  case fragment =>
    intro chunk left hleft
    have hsend := sendFragment_eq { x with off := x.off + x.chunk } hifsc hleft
    simp only [pcbForI_not_decide] at hsend
    exact ⟨_, (hstep ho).trans ((resumeApdu_command_ack s hside).trans hsend), rfl⟩
  case zeroChunk => rw [hstep ho, resumeApdu_command_ack s hside, sendFragment_of_ifsc_zero _ hifsc]
  case commandAnswered =>
    rcases ho with ho | ho
    · exact ⟨_, (hstep ho).trans (resumeApdu_command_resp s hside (.inl rfl)), rfl, rfl⟩
    · exact ⟨_, (hstep ho).trans (resumeApdu_command_resp s hside (.inr rfl)), rfl, rfl⟩
  case responseAcked => exact ⟨_, (hstep ho).trans (resumeApdu_response_ack s hside), rfl, rfl⟩
  case more =>
    rw [hstep ho, resumeApdu_response_more s hside, startPart_nil]
    exact ⟨_, rfl, rfl⟩
  case final => rw [hstep ho, resumeApdu_response_final s hside]

/-! ### INIT and the refusals -/

/-- Settles O24: a failed load leaves no usable record, and the failure writes what R121 and R187 name. -/
theorem failedInitLeavesUninitialised : Obligations.FailedInitLeavesUninitialised := by
  intro s hb
  have hfailed : initOp Config.lrcSupported none s = .next s.initFailed := Checksums.initOp_of_unusable hb rfl
  exact ⟨_, hfailed, rfl⟩

theorem busy_of_running {s : State}
    (h : s.phase = .send ∨ s.phase = .wait ∨ s.phase = .read ∨ s.phase = .eval ∨ s.apdu ≠ none) : s.busy = true := by
  by_contra hb
  have hb : s.busy = false := by simpa using hb
  have ha := EngineState.apdu_of_not_busy hb
  rcases EngineState.phase_of_not_busy hb with hph | hph <;> simp [hph, ha] at h

/-- The reserved code is no operation (R81). -/
theorem decodeCmd_reserved {c : CmdPort} (h : c.cmdOp = 0b11#2) : decodeCmd c = .error .reservedCmdOp := by
  simp [decodeCmd, h]

/-- Settles O30: the acceptance refuses first, then the operation's own limits. -/
theorem hostOperationRefusals : Obligations.HostOperationRefusals := by
  refine ⟨fun cmd isLast s hph ha => ?beforeInit, fun load cmd isLast s hrun => ?busy, fun c s hp hc => ?reserved,
    fun cmd isLast s hph ha hlong => ?tooLong, fun s hph ha => ?empty, fun cmd s hph ha hcmd hifsc => ?zeroChunk⟩
  case beforeInit => exact exec_xfer_of_refused cmd isLast (acceptXfer_uninit _ hph ha)
  case busy =>
    have hb := busy_of_running hrun
    exact ⟨exec_init_of_busy load hb, exec_xfer_of_refused cmd isLast (acceptXfer_busy _ hb)⟩
  case reserved => rw [step_port hp, portPhase, decodeCmd_reserved hc]
  case tooLong => exact (exec_xferPart_of_idle hph ha cmd isLast).trans (startPart_too_long isLast hlong)
  case empty => exact exec_xferApdu_nil hph ha
  case zeroChunk => exact (exec_xferApdu_of_idle hph ha hcmd).trans (sendFragment_of_ifsc_zero _ hifsc)

/-! ### The step and the decoded instruction -/

theorem step_of_decodeCmd {c : CmdPort} {i : Instr} {s : State} (hp : s.port = some c) (h : decodeCmd c = .ok i) :
    step s = exec i { s with port := none } := by
  rw [step_port hp, portPhase, h]

/-- The decoder reads a whole frame as its fields, decodable or not (R67, R77). -/
theorem decode_cardFrame_eq {pcb : Byte} {data : List Byte} (k : ChecksumKind) (hlen : data.length ≤ lenMax) :
    decode k (.block (cardFrame k pcb data)) = decodeFields pcb (BitVec.ofNat 8 data.length) data := by
  obtain ⟨hL, -⟩ := ofNat_len hlen
  cases h : decodeFields pcb (BitVec.ofNat 8 data.length) data with
  | ok i =>
    obtain ⟨-, -, hfields⟩ := BlockEncoding.decodeFields_eq_ok_iff.1 h
    exact BlockEncoding.decode_cardFrame k hlen hfields
  | error e => simp [decode, cardFrame, decodeFrame, hL, h]

/-- What RXBUF decodes to is what the fields of `last_rx` decode to, when the block passes the checks (R112, R145). -/
theorem decodeFields_lastRx {s : State} (h : Safety.Inv s) (hph : s.phase = .eval) (hr : s.rxLen ≠ 0#9)
    (hc : consistent s = 0) :
    decodeFields s.lastRx.pcb s.lastRx.len s.lastRx.data =
      decode s.atp.checksum (.block (s.rxBuf.bytes 0 s.rxLen.toNat)) := by
  have hd := Faultless.data_length_of_consistent h hph hr hc
  have hle : s.lastRx.data.length ≤ lenMax := hd ▸ len_le_of_ne (BlockEncoding.len_ne_of_consistent hc)
  rw [BlockEncoding.rxBuf_bytes_of_consistent h hph hr hc, decode_cardFrame_eq _ hle, hd, BitVec.ofNat_toNat,
    BitVec.setWidth_eq]

/-- The checksum check on a block with a legal LEN writes one accumulator (R102). -/
theorem sumReceived_of_len {s : State} (h : s.rxBuf.read 2 ≠ 255#8) :
    s.sumReceived = s.sum (s.rxBuf.bytes 0 (3 + frameLen s.rxBuf)) :=
  if_neg h

/-- The LEN in RXBUF is the LEN of the block in `last_rx`, and a block that passes the checks has a legal one. -/
theorem rxBuf_len_ne_of_consistent {s : State} (h : Safety.Inv s) (hph : s.phase = .eval) (hr : s.rxLen ≠ 0#9)
    (hc : consistent s = 0) : s.rxBuf.read 2 ≠ 255#8 := by
  have h255 := BlockEncoding.len_ne_of_consistent hc
  rwa [h.evalParse hph hr h255] at h255

/-- Settles O39: the port's word by its own decoder; the block by its fields, which `last_rx` and RXBUF agree on. -/
theorem stepRunsTheDecodedInstruction : Obligations.StepRunsTheDecodedInstruction := by
  refine ⟨fun c k i s hp hi => step_of_decodeCmd hp hi, fun i s h hdisp _ hi => ?block⟩
  case block =>
    obtain ⟨hp, hph, hr, hc⟩ := hdisp
    have hfields := (decodeFields_lastRx h hph hr hc).trans hi
    have hsum := sumReceived_of_len (rxBuf_len_ne_of_consistent h hph hr hc)
    rw [BlockEncoding.step_of_dispatches ⟨hp, hph, hr, hc⟩, dispatchBlock]
    simp only [State.settle_lastRx, State.sumReceived_lastRx, hfields]
    rw [hsum, State.sum_eq]
    exact ⟨_, _, rfl⟩

end Sys2Proof.HostOperations
end

section
/-! PROOFS. The consistency checks (44_t1_consistency.md): what each of the five says of the block in `last_rx`, bit by
bit of its PCB, and `Consistent()` as their conjunction. -/

namespace Sys2Proof.Consistency

open Sys2Proof.Machine

/-! ### Check 3 of an S-block (R138) -/

/-- The type of an S-block is the low nibble of its PCB (R66). -/
theorem pcbStype_eq_iff (pcb : Byte) (stype : BitVec 4) :
    pcbStype pcb = stype ↔ pcb &&& 0x0F#8 = stype.setWidth 8 := by
  have low_nibble : ∀ pcb : Byte, pcb &&& 0x0F#8 = (pcbStype pcb).setWidth 8 := by decide
  have setWidth_inj : ∀ t u : BitVec 4, t.setWidth 8 = u.setWidth 8 → t = u := by decide
  rw [low_nibble]
  exact ⟨congrArg _, setWidth_inj _ _⟩

/-- The LEN each S type has, below the LEN that no block has (R138, R139). -/
theorem sLenOk_iff {stype : BitVec 4} {len : Byte} (h255 : len ≠ 255#8) :
    sLenOk stype len = true ↔
      (stype = 0x3#4 ∨ stype = 0x1#4) ∧ len = 1#8 ∨ (stype = 0x2#4 ∨ stype = 0x0#4) ∧ len = 0#8 ∨
        stype = 0xF#4 := by
  unfold sLenOk
  split_ifs with hone hzero hreset
  · rcases hone with rfl | rfl <;> simp
  · rcases hzero with rfl | rfl <;> simp
  · simp [hreset, h255]
  · simp [hone, hzero, hreset]

/-! ### The checks, each by the block's kind -/

theorem check1_iff {s : State} (h255 : s.rxBuf.read 2 ≠ 255#8) :
    check1 s = true ↔
      s.rxBuf.bytes (3 + frameLen s.rxBuf) (epilogueLen s.atp.checksum) =
        epilogue s.atp.checksum (checksum s.atp.checksum (s.rxBuf.bytes 0 (3 + frameLen s.rxBuf))) :=
  BlockEncoding.checksumOk_iff h255

theorem pcbReservedClear_iff (pcb : Byte) :
    pcbReservedClear pcb = true ↔
      (blockKind pcb = .I → pcb &&& 0x1F#8 = 0#8) ∧ (blockKind pcb = .R → pcb &&& 0x6C#8 = 0#8) ∧
        (blockKind pcb = .S → pcb &&& 0x10#8 = 0#8) := by
  unfold pcbReservedClear
  cases blockKind pcb <;> simp

theorem check3_iff (s : State) :
    check3 s = true ↔
      s.lastRx.len ≠ 255#8 ∧ (blockKind s.lastRx.pcb = .I → s.lastRx.len.toNat ≤ s.ifsd.toNat) ∧
        (blockKind s.lastRx.pcb = .R → s.lastRx.len = 0#8) ∧
        (blockKind s.lastRx.pcb = .S →
          (s.lastRx.pcb &&& 0x0F#8 = 0x03#8 ∨ s.lastRx.pcb &&& 0x0F#8 = 0x01#8) ∧ s.lastRx.len = 1#8 ∨
          (s.lastRx.pcb &&& 0x0F#8 = 0x02#8 ∨ s.lastRx.pcb &&& 0x0F#8 = 0x00#8) ∧ s.lastRx.len = 0#8 ∨
          s.lastRx.pcb &&& 0x0F#8 = 0x0F#8) := by
  unfold check3
  split_ifs with h255
  · simp [h255]
  · cases blockKind s.lastRx.pcb with
    | I => simp [h255, BitVec.le_def]
    | R => simp [h255]
    | S => simp [h255, sLenOk_iff h255, pcbStype_eq_iff]

theorem check4_iff (s : State) :
    check4 s = true ↔
      (blockKind s.lastRx.pcb = .I → s.lastRx.pcb.extractLsb' 6 1 = s.nsSlave) ∧
        (blockKind s.lastRx.pcb = .R → ¬ (blockKind s.orig.pcb = .I ∧ s.orig.pcb.getLsbD 5 = true) →
          s.lastRx.pcb.extractLsb' 4 1 = s.nsMaster) := by
  rw [← chained_iff]
  unfold check4
  cases blockKind s.lastRx.pcb with
  | I => simp [pcbNs]
  | R => cases s.orig.chained <;> simp [pcbNr]
  | S => simp

/-- An S-request is an S-block with the response bit clear (R70). -/
theorem isSRequest_iff (t : Tpdu) : t.isSRequest = true ↔ blockKind t.pcb = .S ∧ t.pcb.getLsbD 5 = false := by
  simp [Tpdu.isSRequest, pcbRsp]

theorem check5_iff (s : State) :
    check5 s = true ↔
      (blockKind s.lastTx.pcb = .S → s.lastTx.pcb.getLsbD 5 = false → s.lastRx.pcb = s.lastTx.pcb ||| 0x20#8) := by
  rw [← and_imp, ← isSRequest_iff]
  unfold check5
  cases s.lastTx.isSRequest <;> simp [responseOf]

/-- Settles O37: `Consistent()` is 0 when every check passes, and each check is read off its own characterisation. -/
theorem consistentMeansAllFiveChecks : Obligations.ConsistentMeansAllFiveChecks := by
  intro s h255
  rw [consistent_eq_zero, check1_iff h255, check2, pcbReservedClear_iff, check3_iff, check4_iff, check5_iff]
  rfl

end Sys2Proof.Consistency
end

section
/-! PROOFS. The received blocks (45_t1_rx_processing.md): what each block's meaning leaves, the whole next state but for
the accumulators (R146 to R156), and what all of them leave alone, read off `BlockMove`. -/

namespace Sys2Proof.BlockReception

open Sys2Proof.Machine Sys2Proof.Safety

/-! ### I-blocks (R146) -/

/-- The numbers flip and the data goes to `resp` before the operation ends; `resp` is unbounded (R17). -/
theorem exec_i (ns : Seq) (more : Bool) (data : List Byte) (s : State) :
    exec (.i ns more data) s = .next ({ s with
      nsMaster := if blockKind s.orig.pcb = BlockKind.I then s.nsMaster.flip else s.nsMaster
      nsSlave := s.nsSlave.flip
      resp := data }.endOp (if more then .respMore data else .respFinal data)) := by
  simp only [exec, execI, State.storeResp_unbounded]
  split_ifs <;> rfl

/-- Settles O14: the state that `exec_i` names, with the operation's end written out. -/
theorem iBlockReceptionAdvancesSequence : Obligations.IBlockReceptionAdvancesSequence := by
  intro ns more data s
  rw [exec_i, State.endOp_eq]
  rfl

/-! ### R-blocks (R147) -/

/-- The error kind is not read. -/
theorem exec_rBlock {i : Instr} {nr : Seq} (hi : i = .rOk nr ∨ i = .rCkerr nr ∨ i = .rOther nr) (s : State) :
    exec i s = processR nr s := by
  rcases hi with rfl | rfl | rfl <;> rfl

/-- Settles O15: the three kinds are processed alike, in the cases of `processR_cases`. -/
theorem rBlockReceptionAcknowledgesOrResends : Obligations.RBlockReceptionAcknowledgesOrResends := by
  intro nr i s hi
  obtain ⟨hack, hresend, hrecover⟩ := processR_cases nr s
  rw [chained_iff] at hack hrecover
  rw [exec_rBlock hi s]
  refine ⟨fun hc hn => ?ack, fun _ hn => hresend hn, fun _ hn => hresend hn,
    fun hc hn => ⟨_, hrecover hc hn, rfl⟩⟩
  case ack => rw [hack hc hn, State.endOp_eq]; rfl

/-! ### S-blocks that the engine answers (R150 to R152) -/

theorem exec_sWtxReq (mult : Byte) (s : State) :
    exec (.sWtxReq mult) s = .next (sending { s with nbwt := mult } 0xE3#8 [mult]) :=
  sendBlock_one _ _ _

theorem exec_sIfsReq (ifsc : Byte) (s : State) :
    exec (.sIfsReq ifsc) s = .next (sending { s with atp := { s.atp with ifsc := ifsc } } 0xE1#8 [ifsc]) :=
  sendBlock_one _ _ _

theorem exec_sResynchReq (s : State) : exec .sResynchReq s = .next (sending s.zeroSeq 0xE0#8 []) :=
  sendBlock_empty _ _

/-- Settles O16, by `exec_sWtxReq`. -/
theorem wtxRequestExtendsNextWindow : Obligations.WtxRequestExtendsNextWindow :=
  fun mult s => ⟨_, exec_sWtxReq mult s, rfl⟩

/-- Settles O17, by `exec_sIfsReq`: the new IFSC does not change the checksum kind of the response. -/
theorem ifsRequestStoresIfsc : Obligations.IfsRequestStoresIfsc :=
  fun ifsc s => ⟨_, exec_sIfsReq ifsc s, rfl⟩

/-- Settles O18, by `exec_sResynchReq`. -/
theorem resynchRequestZeroesSequence : Obligations.ResynchRequestZeroesSequence :=
  fun s => ⟨_, exec_sResynchReq s, rfl⟩

/-! ### The RESYNCH response (R153) -/

theorem pcbNs_eq_one_iff : ∀ pcb : Byte, pcbNs pcb = 1#1 ↔ pcb.getLsbD 6 = true := by decide

theorem pcbNr_eq_one_iff : ∀ pcb : Byte, pcbNr pcb = 1#1 ↔ pcb.getLsbD 4 = true := by decide

/-- The three cases of R153 on the PCB of `orig`; of an R-block only the prologue is kept. -/
theorem exec_sResynchRsp (s : State) :
    exec .sResynchRsp s =
      if blockKind s.orig.pcb = .I ∧ s.orig.pcb.getLsbD 6 = true then
        sendOrig s.orig.nad (s.orig.pcb &&& 0xBF#8) s.orig.len s.orig.data s.zeroSeq
      else if blockKind s.orig.pcb = .R ∧ s.orig.pcb.getLsbD 4 = true then
        sendOrig s.orig.nad (s.orig.pcb &&& 0xEF#8) 0#8 [] s.zeroSeq
      else .next (s.zeroSeq.exchange s.orig) := by
  simp only [← pcbNs_eq_one_iff, ← pcbNr_eq_one_iff]
  rfl

/-- A new `orig` of legal LEN is sealed and its exchange begun (R101, R165). -/
theorem sendOrig_whole {nad pcb len : Byte} {data : List Byte} (s : State) (hlen : len ≠ 255#8)
    (hdata : data.length = len.toNat) :
    ∃ t, sendOrig nad pcb len data s = .next t ∧ t.orig = sealTpdu s.atp.checksum nad pcb len data ∧
      t = { s with orig := t.orig, lastTx := t.orig, phase := .send, crcAcc := t.crcAcc, lrcAcc := t.lrcAcc } := by
  refine ⟨_, sendOrig_ok s hlen hdata, rfl, ?_⟩
  rw [State.sum_eq]
  rfl

/-- Settles O19: a renumbered `orig` is sent as a new one, any other as it stands. -/
theorem resynchResponseRenumbersAndResends : Obligations.ResynchResponseRenumbersAndResends := by
  intro s hwf
  obtain ⟨hlen, hdata⟩ := (Tpdu.wf_iff s.orig).1 hwf
  refine ⟨fun hI h6 => ?iBlock, fun hR h4 => ?rBlock, fun hI hR => ?other⟩
  case iBlock =>
    rw [exec_sResynchRsp, if_pos ⟨hI, h6⟩]
    exact sendOrig_whole s.zeroSeq hlen hdata
  case rBlock =>
    rw [exec_sResynchRsp, if_neg (by simp [hR]), if_pos ⟨hR, h4⟩]
    exact sendOrig_whole s.zeroSeq (by decide) rfl
  case other =>
    rw [exec_sResynchRsp, if_neg hI, if_neg hR]
    rfl

/-! ### S-blocks that end the operation (R154 to R156) -/

theorem exec_sSwresetRsp (data : List Byte) (s : State) :
    exec (.sSwresetRsp data) s =
      .next ({ s with atp := (Config.atpParse data).getD s.atp }.zeroSeq.raise .reset) := rfl

theorem exec_unhandled {i : Instr} {b : Byte} {data : List Byte}
    (hi : i = .sAbortReq ∨ i = .sAbortRsp ∨ i = .sWtxRsp b ∨ i = .sIfsRsp b ∨ i = .sSwresetReq data) (s : State) :
    exec i s = .next (s.raise .reset) := by
  rcases hi with rfl | rfl | rfl | rfl | rfl <;> rfl

/-- Settles O20, by `exec_sSwresetRsp` and what a raised error leaves (`raise_eq`). -/
theorem swresetResponseReloadsAtpAndEnds : Obligations.SwresetResponseReloadsAtpAndEnds :=
  fun data s => ⟨_, exec_sSwresetRsp data s, raise_eq _ _⟩

/-- Settles O21: the five meanings are one raised error. -/
theorem unhandledSBlocksEndWithReset : Obligations.UnhandledSBlocksEndWithReset :=
  fun _ s _ _ hi => ⟨_, exec_unhandled hi s, raise_eq _ _⟩

/-! ### The frame of every received block -/

/-- What no block's meaning writes; `first_transmission` and the card's stream have lemmas of their own. -/
structure BlockFrame (s t : State) : Prop where
  txBuf : t.txBuf = s.txBuf
  rxBuf : t.rxBuf = s.rxBuf
  lastRx : t.lastRx = s.lastRx
  rxLen : t.rxLen = s.rxLen
  linkWr : t.linkWr = s.linkWr
  port : t.port = s.port
  ifsd : t.ifsd = s.ifsd
  initialized : t.initialized = s.initialized

theorem blockMove_frame {i : Instr} {s t : State} (hm : BlockMove i s t) : BlockFrame s t := by
  cases hm with
  | resend | recover | resynchReq | resynchRspSame | ifsReq | wtxReq => constructor <;> rfl
  | iBlock | ack | resynchRsp | swresetRsp | noHandler => constructor <;> simp

/-- A block's meaning hands no frame to the link: it never goes to WAIT (R16), and the cached file's deletion is no
frame. -/
theorem blockMove_framesSent {i : Instr} {s t : State} (hm : BlockMove i s t) :
    framesSent t.events = framesSent s.events := by
  cases StepOutput.blockMove_output hm rfl with
  | silent he => rw [he]
  | frame _ _ _ _ ht => rcases EngineState.BlockMove.phase hm with hph | hph <;> simp [hph] at ht
  | cacheDeleted _ _ _ he => rw [he, StepOutput.framesSent_append]; exact List.append_nil _

/-- Only an R-block that fits no case of R147 enters recovery (R171). -/
theorem blockMove_recovery {i : Instr} {s t : State} (hm : BlockMove i s t) :
    t.recovery = s.recovery ∧ t.events = s.events ∨
      ∃ nr, (i = .rOk nr ∨ i = .rCkerr nr ∨ i = .rOther nr) ∧ s.orig.chained = false ∧ nr ≠ s.nsMaster ∧
        t = inRecovery s := by
  cases hm with
  | recover nr hi hc hn => exact .inr ⟨nr, hi, hc, hn, rfl⟩
  | resend | resynchReq | resynchRspSame | ifsReq | wtxReq => exact .inl ⟨rfl, rfl⟩
  | iBlock | ack | resynchRsp | swresetRsp | noHandler => exact .inl (by simp)

/-- Settles O22: each next state of `exec` is a `BlockMove`, and the frame holds of every one. -/
theorem receivedBlocksFrame : Obligations.ReceivedBlocksFrame := by
  intro i s t hb h
  have hm := exec_blockMove hb h
  obtain ⟨htx, hrx, hlastRx, hrxLen, hlinkWr, hport, hifsd, hinit⟩ := blockMove_frame hm
  refine ⟨fun a => by rw [htx], fun a => by rw [hrx], hlastRx, hrxLen, StepOutput.blockMove_linkRd hm, hlinkWr, hport,
    hifsd, hinit, EngineState.BlockMove.firstTransmission hm, blockMove_framesSent hm, ?_⟩
  refine (blockMove_recovery hm).imp_right ?_
  rintro ⟨nr, hi, hc, hn, rfl⟩
  exact ⟨nr, hi, (chained_iff s.orig).not.1 (by simp [hc]), hn, rfl, rfl⟩

end Sys2Proof.BlockReception
end

section
/-! PROOFS. A WTX request from its dispatch to the link's answer to the response: the step that begins the exchange, and
SEND with the multiplier in `nbwt` (R150, R158 d, R165, R190). -/

namespace Sys2Proof.WaitExtension

open Sys2Proof.Machine Sys2Proof.Safety

/-- The state in which the response to a dispatched WTX request is under way (R150, R172). -/
def answering (s : State) (mult : Byte) : State := sending { s.settled with nbwt := mult } 0xE3#8 [mult]

/-- What the request's step writes: of the fields that SEND reads, `nbwt`, `last_tx` and the phase. -/
theorem answering_eq (s : State) (mult : Byte) :
    answering s mult = { s with
      recovery := .ok
      firstTransmission := false
      nbwt := mult
      lastTx := built s.atp.checksum 0xE3#8 [mult]
      phase := .send
      crcAcc := (answering s mult).crcAcc
      lrcAcc := (answering s mult).lrcAcc
      free := s.sumReceived.free } := by
  unfold answering
  rw [settled_eq]
  rfl

theorem answering_port {s : State} (mult : Byte) (hd : dispatches s) : (answering s mult).port = none := by
  rw [answering_eq]
  exact hd.1

theorem answering_linkWr (s : State) (mult : Byte) : (answering s mult).linkWr = s.linkWr := by
  rw [answering_eq]

/-- A consistent block with the WTX request's PCB and one data byte decodes to it (R67). -/
theorem decodeFields_wtxReq {s : State} {mult : Byte} (h : Inv s) (hd : dispatches s) (hpcb : s.lastRx.pcb = 0xC3#8)
    (hdata : s.lastRx.data = [mult]) :
    decodeFields s.lastRx.pcb s.lastRx.len s.lastRx.data = .ok (.sWtxReq mult) := by
  obtain ⟨-, hph, hr, hc⟩ := hd
  refine BlockEncoding.decodeFields_eq_ok_iff.2
    ⟨BlockEncoding.len_ne_of_consistent hc, Faultless.data_length_of_consistent h hph hr hc, ?_⟩
  rw [hpcb, hdata]
  rfl

theorem step_wtxReq {s : State} {mult : Byte} (h : Inv s) (hd : dispatches s) (hpcb : s.lastRx.pcb = 0xC3#8)
    (hdata : s.lastRx.data = [mult]) : step s = .next (answering s mult) := by
  rw [BlockEncoding.step_of_dispatches hd, dispatchBlock]
  simp only [State.settle_lastRx, State.sumReceived_lastRx, decodeFields_wtxReq h hd hpcb hdata]
  exact BlockReception.exec_sWtxReq mult _

/-- The invariant stands while the response is under way, so SEND finds what it needs. -/
theorem inv_answering {s : State} (mult : Byte) (h : Inv s) (hd : dispatches s) : Inv (answering s mult) := by
  obtain ⟨-, hph, -, -⟩ := hd
  have hrun := (EngineState.running_of_phase h hph (by decide) (by decide)).settled
  exact EngineState.Running.sending (by exact hrun) (by decide) (by simp)

theorem run_two_wtxReq {s t : State} {mult : Byte} (h : Inv s) (hd : dispatches s) (hpcb : s.lastRx.pcb = 0xC3#8)
    (hdata : s.lastRx.data = [mult]) (ht : step (answering s mult) = .next t) : Sys2Proof.core.run 2 s = .next t := by
  rw [run_succ 1 (step_wtxReq h hd hpcb hdata), run_succ 0 ht, run_zero]

/-- Settles O45: SEND, whose whole next state O32 states, takes the multiplier from `nbwt`, where the request's step has
left it. -/
theorem wtxWindowIsArmedWithMultiplier : Obligations.WtxWindowIsArmedWithMultiplier := by
  intro mult s rest h hd hpcb hdata hw
  have hinv := inv_answering mult h hd
  obtain ⟨-, hsend⟩ := BlockExchange.sendHandsOverOneFrame _ (answering_port mult hd) rfl hinv.txBuf hinv.lastTxWf
  obtain ⟨t, hstep, -, -, hsent, -⟩ := hsend .ok rest ((answering_linkWr s mult).trans hw)
  refine ⟨t, run_two_wtxReq h hd hpcb hdata hstep, ?_⟩
  rw [hsent rfl, answering_eq]
  exact ⟨rfl, rfl, rfl⟩

/-- Settles O56: an error of the link ends the operation in SEND (O32, R165), which does not write `nbwt`. -/
theorem failedWriteLeavesMultiplier : Obligations.FailedWriteLeavesMultiplier := by
  intro mult s rest h hd hpcb hdata hw
  have hinv := inv_answering mult h hd
  obtain ⟨-, hsend⟩ := BlockExchange.sendHandsOverOneFrame _ (answering_port mult hd) rfl hinv.txBuf hinv.lastTxWf
  obtain ⟨t, hstep, -, -, -, hfailed⟩ := hsend .ioErr rest ((answering_linkWr s mult).trans hw)
  refine ⟨t, run_two_wtxReq h hd hpcb hdata hstep, ?_⟩
  rw [hfailed rfl, answering_eq]
  exact ⟨rfl, rfl, rfl, rfl, rfl, rfl⟩

end Sys2Proof.WaitExtension
end

section
/-! PROOFS. The recovery loop (46_t1_recovery_loop.md): the transition (R166), the entry on a response failure (R170,
R186), the end of the WARM_RESET action (R169), and a silent card's way through all of them, window by window (R173). -/

namespace Sys2Proof.RecoveryLoop

open Sys2Proof.Machine Sys2Proof.Safety

/-! ### The transition (R166) -/

/-- Settles O41, row by row; only RESEND_2's looks at `first_transmission`. -/
theorem recoveryTransitionTable : Obligations.RecoveryTransitionTable :=
  ⟨fun _ => rfl, fun _ => rfl, rfl, rfl, fun _ => rfl, fun _ => rfl, fun _ => rfl, fun _ => rfl⟩

/-! ### A response failure (R170, R186) -/

section
variable {s : State}

theorem responseFailure_of_recoverable (h : s.lastTx.pcb ≠ 0xCF#8) : responseFailure s = .next (inRecovery s) := by
  rw [responseFailure_eq, if_neg (mt (inWarmReset_iff s).1 h)]

theorem responseFailure_of_warmReset (h : s.lastTx.pcb = 0xCF#8) : responseFailure s = .next (s.raise .reset) := by
  rw [responseFailure_eq, if_pos ((inWarmReset_iff s).2 h)]

theorem step_timeout (hp : s.port = none) (hph : s.phase = .eval) (hr : s.rxLen = 0#9) :
    step s = responseFailure s := by
  rw [step_eval hp hph, evalPhase, if_pos hr]

theorem step_inconsistent (hp : s.port = none) (hph : s.phase = .eval) (hr : s.rxLen ≠ 0#9)
    (hc : consistent s ≠ 0) : step s = responseFailure s.sumReceived := by
  rw [step_eval hp hph, evalPhase, if_neg hr, if_pos hc]

/-- Either failure is `responseFailure`, on a state that differs in the accumulators at most. -/
theorem step_failure (hp : s.port = none) (hph : s.phase = .eval) (hf : s.rxLen = 0#9 ∨ consistent s ≠ 0) :
    ∃ u, (u = s ∨ u = s.sumReceived) ∧ step s = responseFailure u := by
  by_cases hr : s.rxLen = 0#9
  · exact ⟨s, .inl rfl, step_timeout hp hph hr⟩
  · exact ⟨_, .inr rfl, step_inconsistent hp hph hr (hf.resolve_left hr)⟩

end

/-- The checksum check leaves recovery nothing but its accumulators. -/
theorem inRecovery_sumReceived (s : State) :
    inRecovery s.sumReceived = { inRecovery s with
      crcAcc := (inRecovery s.sumReceived).crcAcc
      lrcAcc := (inRecovery s.sumReceived).lrcAcc
      free := (inRecovery s.sumReceived).free } := by
  rw [sumReceived_eq]
  rfl

/-- Settles O42: outside the WARM_RESET action both failures are one entry into recovery. -/
theorem responseFailureEntersRecovery : Obligations.ResponseFailureEntersRecovery := by
  refine fun s hp hph hw => ⟨fun hr => ?timeout, fun hr hc => ?inconsistent⟩
  case timeout =>
    rw [step_timeout hp hph hr]
    exact ⟨_, responseFailure_of_recoverable hw, rfl⟩
  case inconsistent =>
    rw [step_inconsistent hp hph hr hc]
    exact ⟨_, responseFailure_of_recoverable (by simpa using hw), inRecovery_sumReceived s⟩

/-! ### The end of the WARM_RESET action (R169) -/

section
variable {s : State}

/-- Check 5 lets only the SWRESET response through to a SWRESET request (R141). -/
theorem pcb_of_warmReset (hw : s.lastTx.pcb = 0xCF#8) (hc : consistent s = 0) : s.lastRx.pcb = 0xEF#8 := by
  obtain ⟨-, -, -, -, h5⟩ := (consistent_eq_zero s).1 hc
  have hresponse := (Consistency.check5_iff s).1 h5 (by rw [hw]; rfl) (by rw [hw]; rfl)
  rw [hresponse, hw]
  rfl

theorem decodeFields_warmReset (h : Inv s) (hd : dispatches s) (hw : s.lastTx.pcb = 0xCF#8) :
    decodeFields s.lastRx.pcb s.lastRx.len s.lastRx.data = .ok (.sSwresetRsp s.lastRx.data) := by
  obtain ⟨-, hph, hr, hc⟩ := hd
  refine BlockEncoding.decodeFields_eq_ok_iff.2
    ⟨BlockEncoding.len_ne_of_consistent hc, Faultless.data_length_of_consistent h hph hr hc, ?_⟩
  rw [pcb_of_warmReset hw hc]
  rfl

/-- The SWRESET response is processed before the operation ends (R154, R169). -/
theorem step_swresetResponse (h : Inv s) (hd : dispatches s) (hw : s.lastTx.pcb = 0xCF#8) :
    step s = .next
      ({ s.settled with atp := (Config.atpParse s.lastRx.data).getD s.settled.atp }.zeroSeq.raise .reset) := by
  rw [BlockEncoding.step_of_dispatches hd, dispatchBlock]
  simp only [State.settle_lastRx, State.sumReceived_lastRx, decodeFields_warmReset h hd hw]
  exact BlockReception.exec_sSwresetRsp _ _

/-- Whatever fails in the WARM_RESET action, the operation ends at once (R169). -/
theorem step_warmReset_failure (hp : s.port = none) (hph : s.phase = .eval) (hw : s.lastTx.pcb = 0xCF#8)
    (hf : s.rxLen = 0#9 ∨ consistent s ≠ 0) :
    ∃ u, (u = s ∨ u = s.sumReceived) ∧ step s = .next (u.raise .reset) := by
  obtain ⟨u, hu, hstep⟩ := step_failure hp hph hf
  have hwu : u.lastTx.pcb = 0xCF#8 := by rcases hu with rfl | rfl <;> simpa using hw
  exact ⟨u, hu, hstep.trans (responseFailure_of_warmReset hwu)⟩

end

/-- Settles O43: a failure and the response both end in the same raised error, and the response is processed first. -/
theorem warmResetAlwaysEndsTheOperation : Obligations.WarmResetAlwaysEndsTheOperation := by
  intro s h hp hph hw
  by_cases hf : s.rxLen = 0#9 ∨ consistent s ≠ 0
  · obtain ⟨u, hu, hstep⟩ := step_warmReset_failure hp hph hw hf
    have hno : s.rxLen ≠ 0#9 → consistent s ≠ 0 := hf.resolve_left
    refine ⟨_, hstep, ?_⟩
    rcases hu with rfl | rfl <;> simpa using fun hr hc => absurd hc (hno hr)
  · obtain ⟨hr, hc⟩ := not_or.1 hf
    refine ⟨_, step_swresetResponse h ⟨hp, hph, hr, not_not.1 hc⟩ hw, ?_⟩
    rw [settled_eq]
    simp [State.zeroSeq, hr, not_not.1 hc]

/-! ### A window without an answer -/

/-- The frame that SEND hands to the link (R110). -/
def lastFrame (s : State) : List Byte := image s.atp.checksum s.lastTx.nad s.lastTx.pcb s.lastTx.data

/-- `s` after the link has taken the block of its exchange (R110). -/
def handedOver (s : State) (w : List WriteDraw) : State :=
  { s.framed (s.txBuf.writeList 0 (lastFrame s)) with
    linkWr := w
    events := s.events ++ [.linkWrite (lastFrame s), .timerArm s.nbwt s.atp.bwt]
    phase := .wait }

/-- SEND writes TXBUF and an accumulator beside what the link's answer changes. -/
theorem handedOver_eq (s : State) (w : List WriteDraw) :
    handedOver s w = { s with
      txBuf := (handedOver s w).txBuf
      crcAcc := (handedOver s w).crcAcc
      lrcAcc := (handedOver s w).lrcAcc
      events := (handedOver s w).events
      linkWr := w
      phase := .wait } := by
  unfold handedOver
  rw [BlockExchange.framed_eq]

/-- `s` after a response failure whose block has gone out and got no answer in its window (R111, R165, R170). -/
def afterSilence (s : State) (w : List WriteDraw) (r : List ReadDraw) : State :=
  { handedOver (inRecovery s) w with linkRd := r, nbwt := 1#8, rxLen := 0#9, phase := .eval }

/-- EVAL after a window that ended with no answer; once CF is out, `recovery` stands at WARM_RESET (R166, R169). -/
structure TimedOut (s : State) : Prop where
  port : s.port = none
  phase : s.phase = .eval
  rxLen : s.rxLen = 0#9
  apdu : s.apdu = none
  txBuf : s.txBuf.wf = true
  warm : s.lastTx.pcb = 0xCF#8 → s.recovery = .warmReset

/-- `t` comes after `s` with exactly these blocks sent, and what no window touches as it was (R170, R173). -/
structure Sent (s t : State) (pcbs : List Byte) : Prop where
  frames : framesSent t.events = framesSent s.events ++ pcbs.map fun p => image s.atp.checksum 0x00#8 p []
  firstTransmission : t.firstTransmission = s.firstTransmission
  nsMaster : t.nsMaster = s.nsMaster
  nsSlave : t.nsSlave = s.nsSlave
  atp : t.atp = s.atp
  orig : t.orig = s.orig

theorem Sent.refl (s : State) : Sent s s [] := by constructor <;> simp

theorem Sent.trans {s t u : State} {ps qs : List Byte} (h : Sent s t ps) (h' : Sent t u qs) :
    Sent s u (ps ++ qs) where
  frames := by rw [h'.frames, h.frames, h.atp, List.map_append, List.append_assoc]
  firstTransmission := h'.firstTransmission.trans h.firstTransmission
  nsMaster := h'.nsMaster.trans h.nsMaster
  nsSlave := h'.nsSlave.trans h.nsSlave
  atp := h'.atp.trans h.atp
  orig := h'.orig.trans h.orig

theorem Sent.raise {s t : State} {ps : List Byte} (h : Sent s t ps) (k : ErrKind) : Sent s (t.raise k) ps := by
  simpa using h.trans (u := t.raise k) (qs := []) (by constructor <;> simp)

section
variable {s : State} {w : List WriteDraw} {r : List ReadDraw}

theorem afterSilence_lastTx_pcb :
    (afterSilence s w r).lastTx.pcb = recoveryPcb (escalated s.recovery s.firstTransmission) s.nsSlave := by
  rw [afterSilence, handedOver_eq]
  rfl

theorem afterSilence_recovery : (afterSilence s w r).recovery = escalated s.recovery s.firstTransmission := by
  rw [afterSilence, handedOver_eq]
  rfl

theorem step_handedOver (hp : s.port = none) (hph : s.phase = .send) (hb : s.txBuf.wf = true)
    (ht : s.lastTx.wf = true) (hwr : s.linkWr = .ok :: w) : step s = .next (handedOver s w) := by
  rw [step_send hp hph, sendPhase_eq hb ht, hwr]
  rfl

theorem step_expired (hp : s.port = none) (hph : s.phase = .wait) (hrd : s.linkRd = .expired :: r) :
    step s = .next { s with linkRd := r, nbwt := 1#8, rxLen := 0#9, phase := .eval } := by
  rw [step_wait hp hph]
  exact BlockExchange.waitPhase_of_timeout (by rw [hrd]; rfl)

/-- Three steps: the failure's block is formed, the link takes it, and its window ends (log entry 24). -/
theorem run_window (h : TimedOut s) (hw : s.lastTx.pcb ≠ 0xCF#8) (hwr : s.linkWr = .ok :: w)
    (hrd : s.linkRd = .expired :: r) : Sys2Proof.core.run 3 s = .next (afterSilence s w r) := by
  have heval : step s = .next (inRecovery s) :=
    (step_timeout h.port h.phase h.rxLen).trans (responseFailure_of_recoverable hw)
  have hsend : step (inRecovery s) = .next (handedOver (inRecovery s) w) :=
    step_handedOver h.port rfl h.txBuf (built_wf _ _ (Nat.zero_le _)) hwr
  have hwait : step (handedOver (inRecovery s) w) = .next (afterSilence s w r) :=
    step_expired (by rw [handedOver_eq]; exact h.port) rfl (by rw [handedOver_eq]; exact hrd)
  rw [run_succ 2 heval, run_succ 1 hsend, run_succ 0 hwait, run_zero]

/-- The R-block of the RESEND values is no SWRESET request (R72, R167). -/
theorem rOther_ne_swreset : ∀ ns : Seq, 0x82#8 ||| (ns.setWidth 8 <<< 4) ≠ 0xCF#8 := by decide

/-- Only WARM_RESET sends CF (R167 to R169). -/
theorem warmReset_of_recoveryPcb {rec : Recovery} {ns : Seq} (h : recoveryPcb rec ns = 0xCF#8) : rec = .warmReset := by
  cases rec with
  | resend1 | resend2 => exact absurd h (rOther_ne_swreset ns)
  | ok | resync1 | resync2 | resync3 => exact absurd h (by simp [recoveryPcb])
  | warmReset => rfl

theorem timedOut_afterSilence (h : TimedOut s) : TimedOut (afterSilence s w r) where
  port := by rw [afterSilence, handedOver_eq]; exact h.port
  phase := rfl
  rxLen := rfl
  apdu := by rw [afterSilence, handedOver_eq]; exact h.apdu
  txBuf := by
    simp only [afterSilence, handedOver, State.framed_txBuf]
    exact Memory.writeList_wf h.txBuf (image_fits _ (built_wf _ _ (by simp)))
  warm hcf := by
    rw [afterSilence_lastTx_pcb] at hcf
    rw [afterSilence_recovery]
    exact warmReset_of_recoveryPcb hcf

/-- The window's one frame is the new value's block; the deleted file is no frame (R169). -/
theorem sent_afterSilence :
    Sent s (afterSilence s w r) [recoveryPcb (escalated s.recovery s.firstTransmission) s.nsSlave] where
  frames := by
    have hu : framesSent (inRecovery s).events = framesSent s.events := by
      simp only [inRecovery, sending]
      split_ifs <;> simp [framesSent]
    rw [afterSilence, handedOver, StepOutput.framesSent_append, hu]
    rfl
  firstTransmission := by rw [afterSilence, handedOver_eq]; rfl
  nsMaster := by rw [afterSilence, handedOver_eq]; rfl
  nsSlave := by rw [afterSilence, handedOver_eq]; rfl
  atp := by rw [afterSilence, handedOver_eq]; rfl
  orig := by rw [afterSilence, handedOver_eq]; rfl

end

/-! ### The escalation (R166, R173) -/

/-- The blocks a silent card still gets from `s`: none once CF is out (R169). -/
def pending (s : State) : List Byte :=
  if s.lastTx.pcb = 0xCF#8 then [] else escalation s.firstTransmission s.nsSlave s.recovery

/-- The escalation is the new value's block, and after any block but CF the escalation from there. -/
theorem escalation_eq_cons (ft : Bool) (ns : Seq) (rec : Recovery) :
    escalation ft ns rec =
      recoveryPcb (escalated rec ft) ns ::
        if recoveryPcb (escalated rec ft) ns = 0xCF#8 then [] else escalation ft ns (escalated rec ft) := by
  cases rec with
  | ok | resend1 => simp [escalation, escalated, recoveryPcb, rOther_ne_swreset]
  | resend2 => cases ft <;> simp [escalation, escalated, recoveryPcb]
  | resync1 | resync2 | resync3 | warmReset => simp [escalation, escalated, recoveryPcb]

theorem pending_eq_cons {s : State} (w : List WriteDraw) (r : List ReadDraw) (hw : s.lastTx.pcb ≠ 0xCF#8) :
    pending s =
      recoveryPcb (escalated s.recovery s.firstTransmission) s.nsSlave :: pending (afterSilence s w r) := by
  have hs := sent_afterSilence (s := s) (w := w) (r := r)
  rw [pending, if_neg hw, pending, afterSilence_lastTx_pcb, afterSilence_recovery, hs.firstTransmission, hs.nsSlave,
    escalation_eq_cons]

/-- A silent card gets the pending blocks, one window each, until CF has been sent in vain. -/
theorem run_pending {pcbs : List Byte} {w : List WriteDraw} {r : List ReadDraw} {s : State} (h : TimedOut s)
    (hpcbs : pending s = pcbs) (hwr : s.linkWr = List.replicate pcbs.length .ok ++ w)
    (hrd : s.linkRd = List.replicate pcbs.length .expired ++ r) :
    ∃ t : State, Sys2Proof.core.run (3 * pcbs.length) s = .next t ∧ TimedOut t ∧ t.lastTx.pcb = 0xCF#8 ∧
      t.linkWr = w ∧ t.linkRd = r ∧ Sent s t pcbs := by
  induction pcbs generalizing s with
  | nil =>
    have hcf : s.lastTx.pcb = 0xCF#8 := by
      by_contra hw
      simp [pending_eq_cons w r hw] at hpcbs
    exact ⟨s, rfl, h, hcf, hwr, hrd, .refl s⟩
  | cons p ps ih =>
    have hw : s.lastTx.pcb ≠ 0xCF#8 := fun hcf => by simp [pending, hcf] at hpcbs
    have hwindow := run_window h hw hwr hrd
    obtain ⟨rfl, hps⟩ := List.cons.inj ((pending_eq_cons _ _ hw).symm.trans hpcbs)
    obtain ⟨t, hrun, ht, hcf, htw, htr, hsent⟩ := ih (timedOut_afterSilence h) hps rfl rfl
    refine ⟨t, ?_, ht, hcf, htw, htr, sent_afterSilence.trans hsent⟩
    rw [List.length_cons, Nat.mul_succ, Nat.add_comm, run_add _ hwindow]
    exact hrun

/-- Settles O44: the pending blocks are the escalation, and the failure after CF ends the operation (R169). -/
theorem silentCardEscalatesToReset : Obligations.SilentCardEscalatesToReset := by
  intro s w r pcbs hp hph hr hw ha hb hwr hrd
  have h : TimedOut s := ⟨hp, hph, hr, ha, hb, fun hcf => absurd hcf hw⟩
  obtain ⟨t, hrun, ht, hcf, htw, htr, hsent⟩ := run_pending h (if_neg hw) hwr hrd
  have hend := (step_timeout ht.port ht.phase ht.rxLen).trans (responseFailure_of_warmReset hcf)
  obtain ⟨hframes, hft, hnm, hns, hatp, horig⟩ := hsent.raise .reset
  refine ⟨t.raise .reset, ?_, hframes, by simp [ht.apdu], by simp, by simpa using ht.warm hcf, hft, hnm, hns, hatp,
    horig, by simpa using htw, by simpa using htr⟩
  rw [run_add 1 hrun, run_succ 0 hend, run_zero]

end Sys2Proof.RecoveryLoop
end
